-- ==== Sys2Proof/Word.lean ====
section
/-! DEFINITION. The word types of the machine (10_state.md R11, 20_memory.md R31). -/

namespace Sys2Proof

/-- The unit of memory and of the destination operand: 8 bits (20_memory.md R31). -/
abbrev Byte := BitVec 8

/-- The width `XLEN` of a general register, of RIP and of a linear or physical address: 64 bits
(00_scope.md R5, 10_state.md R11, 20_memory.md R30). -/
abbrev Word := BitVec 64

end Sys2Proof
end

