-- ==== Sys2Proof/Config.lean ====
section
/-! DEFINITION. The model arguments of 00_scope.md R5 and 92_eei_decisions.md ("Open parameters, gathered"), as plain
data: `VA_BITS`, `A20Masked`, `Translate`, `PlainMemory`; and the free values of the status flags. A state carries one
`Config`, which no step changes, so a claim for every state is a claim for every value of these arguments. -/

namespace Sys2Proof

/-- `VA_BITS`, the width of a canonical linear address: 48 or 57 (20_memory.md R39, decision D10, OPEN). -/
inductive VaBits where
  | va48
  | va57
  deriving DecidableEq, Repr

/-- The answer of `Translate`: a physical address, or a page fault with its fault-code (20_memory.md R40,
60_exceptions.md R146: the code is a 32-bit value). -/
inductive TranslateResult where
  | ok (physical : Word)
  | pageFault (code : BitVec 32)
  deriving DecidableEq, Repr

/-- One entry of the table of `Translate`: its answer for one linear address, one kind of access (write or not) and
one privilege (user or supervisor) (20_memory.md R40). -/
structure TranslateEntry where
  linear : Word
  write : Bool
  user : Bool
  result : TranslateResult
  deriving DecidableEq, Repr

/-- A window of physical addresses, from `first` to `last` inclusive. -/
structure Window where
  first : Word
  last : Word
  deriving DecidableEq, Repr

/-- The model arguments. `translations` lists where `Translate` differs from the identity (20_memory.md R40, D11; any
total function on 64-bit addresses has such a list); `deviceWindows` lists where `PlainMemory` is false
(20_memory.md R36, D23); `a20Masked` is `A20Masked` (20_memory.md R38, D8). DESIGN CHOICE, safe: assumption log 2, 16. -/
structure Config where
  vaBits : VaBits
  a20Masked : Bool
  translations : List TranslateEntry
  deviceWindows : List Window
  deriving DecidableEq, Repr

/-- One bit for each of the five status flags that SETcc reads (10_state.md R15). -/
structure Flags where
  cf : Bool
  pf : Bool
  zf : Bool
  sf : Bool
  of : Bool
  deriving DecidableEq, Repr, Inhabited

/-- The draws: what the status flags that nothing has fixed read as at the reading with this number, "either bit, chosen
freely at each read, under no law" (10_state.md R26, decision D27). No body: nothing can be proved of a value of it
(assumption log 25). -/
opaque Config.freeFlags : Nat → Flags

end Sys2Proof
end

