-- ==== Sys2Proof/Syntax.lean ====
section
/-! DEFINITION. The instruction set as data: one constructor of `Instr` per row of spec/opcode_table.json, with the
operand as the encoding gives it (30_encoding.md R50 to R66). -/

namespace Sys2Proof

/-- The five operating modes (10_state.md R20): real-address, protected, virtual-8086, compatibility, 64-bit mode. -/
inductive Mode where
  | real
  | prot
  | v86
  | compat
  | long64
  deriving DecidableEq, Repr

/-- The default address size `csD` of a code segment outside 64-bit, real-address and virtual-8086 mode
(00_scope.md R5). -/
inductive CodeSize where
  | size16
  | size32
  deriving DecidableEq, Repr

/-- What decoding depends on besides the bytes: `decode(bytes at pc, mode, csD)` (30_encoding.md R70). -/
structure Ctx where
  mode : Mode
  csD : CodeSize
  deriving DecidableEq, Repr

/-- The address size `A` (30_encoding.md R65). -/
inductive AddrSize where
  | a16
  | a32
  | a64
  deriving DecidableEq, Repr

/-- The six segment registers (10_state.md R18). -/
inductive SegName where
  | es
  | cs
  | ss
  | ds
  | fs
  | gs
  deriving DecidableEq, Repr

/-- The legacy prefixes a SETcc may carry: LOCK (30_encoding.md R67), a segment override (R66), the address-size
prefix 67H (R65). -/
inductive LegacyPrefix where
  | lock
  | segment (s : SegName)
  | addressSize
  deriving DecidableEq, Repr

/-- A REX prefix `0100WRXB` (30_encoding.md R58). -/
structure Rex where
  w : Bool
  r : Bool
  x : Bool
  b : Bool
  deriving DecidableEq, Repr

/-- The displacement of a 16-bit memory form: none, disp8 or disp16 (30_encoding.md R63). -/
inductive Disp16 where
  | none
  | disp8 (d : BitVec 8)
  | disp16 (d : BitVec 16)
  deriving DecidableEq, Repr

/-- The displacement of a 32- or 64-bit memory form: none, disp8 or disp32 (30_encoding.md R60). -/
inductive Disp32 where
  | none
  | disp8 (d : BitVec 8)
  | disp32 (d : BitVec 32)
  deriving DecidableEq, Repr

/-- The registers of a 16-bit memory form, `rm` = 0 to 7 in this order (30_encoding.md R63). -/
inductive Base16 where
  | bxSi
  | bxDi
  | bpSi
  | bpDi
  | si
  | di
  | bp
  | bx
  deriving DecidableEq, Repr

/-- The operand r/m8 as encoded after the opcode (30_encoding.md R54). -/
inductive RmOperand where
  /-- `mod = 3`: the byte register numbered by `rm` (R56, R57). -/
  | reg (rm : BitVec 3)
  /-- `A = 16`, `mod = 0`, `rm = 6`: disp16 alone (R63). -/
  | abs16 (d : BitVec 16)
  /-- `A = 16`, every other row of the table of R63. -/
  | based16 (base : Base16) (d : Disp16)
  /-- `A` = 32 or 64, `mod = 0`, `rm = 5`: RIP-relative in 64-bit mode (R62), disp32 alone elsewhere (R60). -/
  | direct (d : BitVec 32)
  /-- `A` = 32 or 64, a base register without SIB (R60). -/
  | based (rm : BitVec 3) (d : Disp32)
  /-- `A` = 32 or 64, `rm = 4`: a SIB byte with a base register (R61). -/
  | sib (scale : BitVec 2) (index base : BitVec 3) (d : Disp32)
  /-- `A` = 32 or 64, `rm = 4`, `mod = 0`, SIB `base = 5`: disp32 and no base register (R61). -/
  | sibNoBase (scale : BitVec 2) (index : BitVec 3) (d : BitVec 32)
  deriving DecidableEq, Repr

/-- What every SETcc encoding holds besides its opcode and REX prefix: the legacy prefixes in their order, the ModR/M
`reg` field, which the processor ignores (30_encoding.md R55), and the operand. -/
structure Form where
  prefixes : List LegacyPrefix
  reg : BitVec 3
  rm : RmOperand
  deriving DecidableEq, Repr

/-- The sixteen conditions (30_encoding.md R52, 40_setcc.md R80), each named by the suffix of the first mnemonic of its
opcode. -/
inductive Condition where
  | o
  | no
  | b
  | ae
  | e
  | ne
  | be
  | a
  | s
  | ns
  | p
  | np
  | l
  | ge
  | le
  | g
  deriving DecidableEq, Repr

/-- One of the 20 byte registers (10_state.md R12): `low i` is bits 7:0 of general register `i`, `high i` is bits 15:8
of general register `i` = 0 to 3 (AH, CH, DH, BH). -/
inductive Reg8 where
  | low (i : BitVec 4)
  | high (i : BitVec 2)
  deriving DecidableEq, Repr

/-- Why a byte sequence is not decoded (30_encoding.md R70, R71). None is a behaviour of the hardware; each is safe. -/
inductive DecodeRefusal where
  /-- A 66H, F2H or F3H prefix (R68, D15). -/
  | undefinedPrefix
  /-- Not a SETcc: no `0F 9n` after the prefixes, or a misplaced or doubled REX (R58, R70, R76, D16). -/
  | notSetcc
  /-- A 26H, 2EH, 36H or 3EH override on a memory form in 64-bit mode (R66, D8). -/
  | nullSegPrefix
  /-- More than one segment override (R66, D19). -/
  | multiSegPrefix
  /-- LOCK or 67H twice (R69, D19). -/
  | repeatedPrefix
  /-- A segment override on a register form (R66, D8). -/
  | segPrefixOnReg
  /-- More than 15 bytes (R69, D18). -/
  | tooLong
  /-- The bytes end before the instruction does (20_memory.md R47, D22: not a whole instruction). -/
  | truncated
  deriving DecidableEq, Repr

/-- The rows of spec/opcode_table.json: each mnemonic without a REX prefix (format `M`) and with one (format
`REX+M`), in the table's order. -/
inductive Instr where
  /-- SETA r/m8, `0F 97` (40_setcc.md R90): "Set byte if above (CF=0 and ZF=0)." -/
  | seta (f : Form)
  /-- SETA r/m8, `REX + 0F 97` (40_setcc.md R90). -/
  | setaRex (rex : Rex) (f : Form)
  /-- SETAE r/m8, `0F 93` (40_setcc.md R91): "Set byte if above or equal (CF=0)." -/
  | setae (f : Form)
  /-- SETAE r/m8, `REX + 0F 93` (40_setcc.md R91). -/
  | setaeRex (rex : Rex) (f : Form)
  /-- SETB r/m8, `0F 92` (40_setcc.md R92): "Set byte if below (CF=1)." -/
  | setb (f : Form)
  /-- SETB r/m8, `REX + 0F 92` (40_setcc.md R92). -/
  | setbRex (rex : Rex) (f : Form)
  /-- SETBE r/m8, `0F 96` (40_setcc.md R93): "Set byte if below or equal (CF=1 or ZF=1)." -/
  | setbe (f : Form)
  /-- SETBE r/m8, `REX + 0F 96` (40_setcc.md R93). -/
  | setbeRex (rex : Rex) (f : Form)
  /-- SETC r/m8, `0F 92` (40_setcc.md R94): "Set byte if carry (CF=1)." -/
  | setc (f : Form)
  /-- SETC r/m8, `REX + 0F 92` (40_setcc.md R94). -/
  | setcRex (rex : Rex) (f : Form)
  /-- SETE r/m8, `0F 94` (40_setcc.md R95): "Set byte if equal (ZF=1)." -/
  | sete (f : Form)
  /-- SETE r/m8, `REX + 0F 94` (40_setcc.md R95). -/
  | seteRex (rex : Rex) (f : Form)
  /-- SETG r/m8, `0F 9F` (40_setcc.md R96): "Set byte if greater (ZF=0 and SF=OF)." -/
  | setg (f : Form)
  /-- SETG r/m8, `REX + 0F 9F` (40_setcc.md R96). -/
  | setgRex (rex : Rex) (f : Form)
  /-- SETGE r/m8, `0F 9D` (40_setcc.md R97): "Set byte if greater or equal (SF=OF)." -/
  | setge (f : Form)
  /-- SETGE r/m8, `REX + 0F 9D` (40_setcc.md R97). -/
  | setgeRex (rex : Rex) (f : Form)
  /-- SETL r/m8, `0F 9C` (40_setcc.md R98): "Set byte if less (SF≠ OF)." -/
  | setl (f : Form)
  /-- SETL r/m8, `REX + 0F 9C` (40_setcc.md R98). -/
  | setlRex (rex : Rex) (f : Form)
  /-- SETLE r/m8, `0F 9E` (40_setcc.md R99): "Set byte if less or equal (ZF=1 or SF≠ OF)." -/
  | setle (f : Form)
  /-- SETLE r/m8, `REX + 0F 9E` (40_setcc.md R99). -/
  | setleRex (rex : Rex) (f : Form)
  /-- SETNA r/m8, `0F 96` (40_setcc.md R100): "Set byte if not above (CF=1 or ZF=1)." -/
  | setna (f : Form)
  /-- SETNA r/m8, `REX + 0F 96` (40_setcc.md R100). -/
  | setnaRex (rex : Rex) (f : Form)
  /-- SETNAE r/m8, `0F 92` (40_setcc.md R101): "Set byte if not above or equal (CF=1)." -/
  | setnae (f : Form)
  /-- SETNAE r/m8, `REX + 0F 92` (40_setcc.md R101). -/
  | setnaeRex (rex : Rex) (f : Form)
  /-- SETNB r/m8, `0F 93` (40_setcc.md R102): "Set byte if not below (CF=0)." -/
  | setnb (f : Form)
  /-- SETNB r/m8, `REX + 0F 93` (40_setcc.md R102). -/
  | setnbRex (rex : Rex) (f : Form)
  /-- SETNBE r/m8, `0F 97` (40_setcc.md R103): "Set byte if not below or equal (CF=0 and ZF=0)." -/
  | setnbe (f : Form)
  /-- SETNBE r/m8, `REX + 0F 97` (40_setcc.md R103). -/
  | setnbeRex (rex : Rex) (f : Form)
  /-- SETNC r/m8, `0F 93` (40_setcc.md R104): "Set byte if not carry (CF=0)." -/
  | setnc (f : Form)
  /-- SETNC r/m8, `REX + 0F 93` (40_setcc.md R104). -/
  | setncRex (rex : Rex) (f : Form)
  /-- SETNE r/m8, `0F 95` (40_setcc.md R105): "Set byte if not equal (ZF=0)." -/
  | setne (f : Form)
  /-- SETNE r/m8, `REX + 0F 95` (40_setcc.md R105). -/
  | setneRex (rex : Rex) (f : Form)
  /-- SETNG r/m8, `0F 9E` (40_setcc.md R106): "Set byte if not greater (ZF=1 or SF≠ OF)" -/
  | setng (f : Form)
  /-- SETNG r/m8, `REX + 0F 9E` (40_setcc.md R106). -/
  | setngRex (rex : Rex) (f : Form)
  /-- SETNGE r/m8, `0F 9C` (40_setcc.md R107): "Set byte if not greater or equal (SF≠ OF)." -/
  | setnge (f : Form)
  /-- SETNGE r/m8, `REX + 0F 9C` (40_setcc.md R107). -/
  | setngeRex (rex : Rex) (f : Form)
  /-- SETNL r/m8, `0F 9D` (40_setcc.md R108): "Set byte if not less (SF=OF)." -/
  | setnl (f : Form)
  /-- SETNL r/m8, `REX + 0F 9D` (40_setcc.md R108). -/
  | setnlRex (rex : Rex) (f : Form)
  /-- SETNLE r/m8, `0F 9F` (40_setcc.md R109): "Set byte if not less or equal (ZF=0 and SF=OF)." -/
  | setnle (f : Form)
  /-- SETNLE r/m8, `REX + 0F 9F` (40_setcc.md R109). -/
  | setnleRex (rex : Rex) (f : Form)
  /-- SETNO r/m8, `0F 91` (40_setcc.md R110): "Set byte if not overflow (OF=0)." -/
  | setno (f : Form)
  /-- SETNO r/m8, `REX + 0F 91` (40_setcc.md R110). -/
  | setnoRex (rex : Rex) (f : Form)
  /-- SETNP r/m8, `0F 9B` (40_setcc.md R111): "Set byte if not parity (PF=0)." -/
  | setnp (f : Form)
  /-- SETNP r/m8, `REX + 0F 9B` (40_setcc.md R111). -/
  | setnpRex (rex : Rex) (f : Form)
  /-- SETNS r/m8, `0F 99` (40_setcc.md R112): "Set byte if not sign (SF=0)." -/
  | setns (f : Form)
  /-- SETNS r/m8, `REX + 0F 99` (40_setcc.md R112). -/
  | setnsRex (rex : Rex) (f : Form)
  /-- SETNZ r/m8, `0F 95` (40_setcc.md R113): "Set byte if not zero (ZF=0)." -/
  | setnz (f : Form)
  /-- SETNZ r/m8, `REX + 0F 95` (40_setcc.md R113). -/
  | setnzRex (rex : Rex) (f : Form)
  /-- SETO r/m8, `0F 90` (40_setcc.md R114): "Set byte if overflow (OF=1)" -/
  | seto (f : Form)
  /-- SETO r/m8, `REX + 0F 90` (40_setcc.md R114). -/
  | setoRex (rex : Rex) (f : Form)
  /-- SETP r/m8, `0F 9A` (40_setcc.md R115): "Set byte if parity (PF=1)." -/
  | setp (f : Form)
  /-- SETP r/m8, `REX + 0F 9A` (40_setcc.md R115). -/
  | setpRex (rex : Rex) (f : Form)
  /-- SETPE r/m8, `0F 9A` (40_setcc.md R116): "Set byte if parity even (PF=1)." -/
  | setpe (f : Form)
  /-- SETPE r/m8, `REX + 0F 9A` (40_setcc.md R116). -/
  | setpeRex (rex : Rex) (f : Form)
  /-- SETPO r/m8, `0F 9B` (40_setcc.md R117): "Set byte if parity odd (PF=0)." -/
  | setpo (f : Form)
  /-- SETPO r/m8, `REX + 0F 9B` (40_setcc.md R117). -/
  | setpoRex (rex : Rex) (f : Form)
  /-- SETS r/m8, `0F 98` (40_setcc.md R118): "Set byte if sign (SF=1)." -/
  | sets (f : Form)
  /-- SETS r/m8, `REX + 0F 98` (40_setcc.md R118). -/
  | setsRex (rex : Rex) (f : Form)
  /-- SETZ r/m8, `0F 94` (40_setcc.md R119): "Set byte if zero (ZF=1)." -/
  | setz (f : Form)
  /-- SETZ r/m8, `REX + 0F 94` (40_setcc.md R119). -/
  | setzRex (rex : Rex) (f : Form)
  deriving DecidableEq, Repr

/-- The encoding parts of an instruction besides its opcode. -/
def Instr.form : Instr → Form
  | .seta f => f
  | .setaRex _ f => f
  | .setae f => f
  | .setaeRex _ f => f
  | .setb f => f
  | .setbRex _ f => f
  | .setbe f => f
  | .setbeRex _ f => f
  | .setc f => f
  | .setcRex _ f => f
  | .sete f => f
  | .seteRex _ f => f
  | .setg f => f
  | .setgRex _ f => f
  | .setge f => f
  | .setgeRex _ f => f
  | .setl f => f
  | .setlRex _ f => f
  | .setle f => f
  | .setleRex _ f => f
  | .setna f => f
  | .setnaRex _ f => f
  | .setnae f => f
  | .setnaeRex _ f => f
  | .setnb f => f
  | .setnbRex _ f => f
  | .setnbe f => f
  | .setnbeRex _ f => f
  | .setnc f => f
  | .setncRex _ f => f
  | .setne f => f
  | .setneRex _ f => f
  | .setng f => f
  | .setngRex _ f => f
  | .setnge f => f
  | .setngeRex _ f => f
  | .setnl f => f
  | .setnlRex _ f => f
  | .setnle f => f
  | .setnleRex _ f => f
  | .setno f => f
  | .setnoRex _ f => f
  | .setnp f => f
  | .setnpRex _ f => f
  | .setns f => f
  | .setnsRex _ f => f
  | .setnz f => f
  | .setnzRex _ f => f
  | .seto f => f
  | .setoRex _ f => f
  | .setp f => f
  | .setpRex _ f => f
  | .setpe f => f
  | .setpeRex _ f => f
  | .setpo f => f
  | .setpoRex _ f => f
  | .sets f => f
  | .setsRex _ f => f
  | .setz f => f
  | .setzRex _ f => f

/-- The REX prefix of an instruction: none on the rows of format `M`. -/
def Instr.rex : Instr → Option Rex
  | .seta _ => none
  | .setaRex rex _ => some rex
  | .setae _ => none
  | .setaeRex rex _ => some rex
  | .setb _ => none
  | .setbRex rex _ => some rex
  | .setbe _ => none
  | .setbeRex rex _ => some rex
  | .setc _ => none
  | .setcRex rex _ => some rex
  | .sete _ => none
  | .seteRex rex _ => some rex
  | .setg _ => none
  | .setgRex rex _ => some rex
  | .setge _ => none
  | .setgeRex rex _ => some rex
  | .setl _ => none
  | .setlRex rex _ => some rex
  | .setle _ => none
  | .setleRex rex _ => some rex
  | .setna _ => none
  | .setnaRex rex _ => some rex
  | .setnae _ => none
  | .setnaeRex rex _ => some rex
  | .setnb _ => none
  | .setnbRex rex _ => some rex
  | .setnbe _ => none
  | .setnbeRex rex _ => some rex
  | .setnc _ => none
  | .setncRex rex _ => some rex
  | .setne _ => none
  | .setneRex rex _ => some rex
  | .setng _ => none
  | .setngRex rex _ => some rex
  | .setnge _ => none
  | .setngeRex rex _ => some rex
  | .setnl _ => none
  | .setnlRex rex _ => some rex
  | .setnle _ => none
  | .setnleRex rex _ => some rex
  | .setno _ => none
  | .setnoRex rex _ => some rex
  | .setnp _ => none
  | .setnpRex rex _ => some rex
  | .setns _ => none
  | .setnsRex rex _ => some rex
  | .setnz _ => none
  | .setnzRex rex _ => some rex
  | .seto _ => none
  | .setoRex rex _ => some rex
  | .setp _ => none
  | .setpRex rex _ => some rex
  | .setpe _ => none
  | .setpeRex rex _ => some rex
  | .setpo _ => none
  | .setpoRex rex _ => some rex
  | .sets _ => none
  | .setsRex rex _ => some rex
  | .setz _ => none
  | .setzRex rex _ => some rex

end Sys2Proof
end

