-- ==== Sys2Proof/Machine/State.lean ====
section
/-! DEFINITION. The state of the machine as plain data, the reasons a step can stop, and the state after reset
(10_state.md; 60_exceptions.md R130, R150; 30_encoding.md R71). -/

namespace Sys2Proof.Machine

/-- A segment register (10_state.md R18): the visible selector and the hidden part. The record's `null` is
`SegReg.isNull` of the selector; `big` is the descriptor's B flag (20_memory.md R41). -/
structure SegReg where
  selector : BitVec 16
  base : Word
  limit : BitVec 32
  writable : Bool
  expandDown : Bool
  big : Bool
  deriving DecidableEq, Repr

/-- The six segment registers (10_state.md R18). -/
structure SegFile where
  es : SegReg
  cs : SegReg
  ss : SegReg
  ds : SegReg
  fs : SegReg
  gs : SegReg
  deriving DecidableEq, Repr

/-- Memory: physical byte addresses with their bytes, addresses strictly rising (20_memory.md R31, R37). -/
abbrev Memory := List Host.Cell

/-- The program text `P`: `length` bytes from `pc = base` upward, `base` being an offset in the code segment as `pc` is
(70_reset_and_hazards.md R176, 20_memory.md R47, 10_state.md R14; assumption log 1). -/
structure Text where
  base : Word
  length : Nat
  deriving DecidableEq, Repr

/-- Everything the spec gives the machine (10_state.md R10 to R26, 20_memory.md R30 to R47; INVENTORY.md, State). -/
structure State where
  /-- The general registers RAX, RCX, RDX, RBX, RSP, RBP, RSI, RDI, R8 to R15 (R11). -/
  regs : Vector Word 16
  /-- The instruction pointer, an offset in the code segment (R14). -/
  pc : Word
  /-- EFLAGS, RFLAGS in 64-bit mode (R15, R16). -/
  rflags : Word
  /-- The status flags whose value nothing has fixed: each reading of such a flag is a draw, whatever its bit in `rflags`
  (R26). -/
  unfixed : Flags
  /-- The MODEL's own counter of the readings of the status flags, one per completed SETcc: the number of the next draw
  (R26, assumption log 25). -/
  draws : Nat
  /-- The operating mode (R20). -/
  mode : Mode
  /-- The default address size of the code segment, CS.D (R20, R21). -/
  csD : CodeSize
  /-- CR0.PG: paging is on (20_memory.md R40, 10_state.md R21). -/
  paging : Bool
  /-- The segment registers (R18). -/
  segs : SegFile
  /-- Memory (20_memory.md R30, R31, R37). -/
  mem : Memory
  /-- Where the program text lies (20_memory.md R45, R47). -/
  text : Text
  /-- A breakpoint is armed in DR0 to DR3 and DR7 (60_exceptions.md R158). -/
  breakpointArmed : Bool
  /-- The model arguments, which no step changes (00_scope.md R5, 10_state.md R24). -/
  cfg : Config
  deriving DecidableEq, Repr

/-- The exceptions of SETcc (60_exceptions.md R130). Taking one ends the run in the terminal outcome
`Fault(name, errorCode, faultAddress)`; the state is the one before the instruction (R149, R150, decision D12). All are
safe: the model says nothing of what follows. -/
inductive Fault where
  /-- #UD, invalid opcode, no error code: raised for a LOCK prefix in every mode (R131). Safe. -/
  | ud
  /-- #SS, stack-segment fault: the SS limit, or a non-canonical address through SS in 64-bit mode (R135, R138, R140,
  R143); error code 0, none in real-address mode. Safe. -/
  | ss (errorCode : Option (BitVec 32))
  /-- #GP, general protection: a non-writable segment, a limit, a NULL selector, or a non-canonical address (R132 to
  R134, R137, R139, R144); error code 0, none in real-address mode. Safe. -/
  | gp (errorCode : Option (BitVec 32))
  /-- #PF, page fault: `Translate` answers a page fault (R136, R141, R145); the fault-code is passed through (R146) and
  the address is the destination's linear address. Safe. -/
  | pf (code : BitVec 32) (address : Word)
  deriving DecidableEq, Repr

/-- What the model gives no meaning to. None is a behaviour of the hardware (00_scope.md R9); each is safe. -/
inductive Refusal where
  /-- An instruction without a meaning yet, in its arm of `exec` only. Safe. -/
  | notModelled (mnemonic : String)
  /-- The decoding procedure refuses the bytes, by its own name (30_encoding.md R70, R71); raised by `step`. Safe. -/
  | decoding (why : DecodeRefusal)
  /-- `pc` does not address a whole instruction inside the program text (20_memory.md R47, D22); raised by `step`.
  Safe. -/
  | fetchOutsideText
  /-- The instruction's bytes or the next `pc` pass the top of the instruction pointer's range, or leave canonical form in
  64-bit mode (10_state.md R14, D5); raised by every meaning and by `step`. Safe. -/
  | pcWrap
  /-- The destination byte lies inside the program text (20_memory.md R45, D22); raised by every meaning. Safe. -/
  | storeToText
  /-- The destination byte is not plain memory: a device, whose behaviour the spec leaves open (20_memory.md R36, D23);
  raised by every meaning. Safe. -/
  | notPlainMemory
  /-- `Done`: `pc` addresses the byte just past the program text, so the run has ended as it should and nothing is left to
  run (70_reset_and_hazards.md R176, D26); raised by `step`, reported as `RunOutcome.done` by `run`. Safe. -/
  | done
  /-- EFLAGS.TF is 1 or a breakpoint is armed (60_exceptions.md R158, D25); raised by `step`. Safe. -/
  | debugActive
  /-- A term of `Instr` that no bytes encode in this mode, such as a REX form outside 64-bit mode (30_encoding.md R76);
  raised by every meaning, reached by no step. Safe. -/
  | illFormed
  deriving DecidableEq, Repr

/-- What decoding depends on besides the bytes (30_encoding.md R70). -/
def State.ctx (s : State) : Ctx := { mode := s.mode, csD := s.csD }

/-- A data segment register after reset: selector 0, base 0, limit FFFFH, writable (10_state.md R25). -/
def SegReg.dataReset : SegReg :=
  { selector := 0, base := 0, limit := 0xFFFF, writable := true, expandDown := false, big := false }

/-- CS after reset: selector F000H, base FFFF0000H, limit FFFFH (10_state.md R25). -/
def SegReg.codeReset : SegReg :=
  { selector := 0xF000, base := 0xFFFF0000, limit := 0xFFFF, writable := true, expandDown := false, big := false }

/-- The machine right after reset: the family's values of 10_state.md R25 (PRESUMED, unsafe, assumption log 4; RDX is
DESIGN CHOICE, log 5), the model arguments at the defaults of 92_eei_decisions.md (DESIGN CHOICE, log 6), no memory
byte listed (log 3) and no program text (log 1). -/
def State.reset : State :=
  { regs := Vector.replicate 16 0
    pc := 0xFFF0
    rflags := 2
    unfixed := { cf := false, pf := false, zf := false, sf := false, of := false }
    draws := 0
    mode := .real
    csD := .size16
    paging := false
    segs :=
      { es := .dataReset, cs := .codeReset, ss := .dataReset, ds := .dataReset, fs := .dataReset, gs := .dataReset }
    mem := []
    text := { base := 0xFFF0, length := 0 }
    breakpointArmed := false
    cfg := { vaBits := .va48, a20Masked := false, translations := [], deviceWindows := [] } }

end Sys2Proof.Machine
end

