-- ==== Sys2Proof/Machine/Flags.lean ====
section
/-! DEFINITION. The status flags and the sixteen conditions (10_state.md R15, R16, R26; 40_setcc.md R80). SETcc writes no
flag (10_state.md R17), so there is no flag computation besides reading them. -/

namespace Sys2Proof

/-- `cond(n)` (40_setcc.md R80). -/
def Flags.holds (f : Flags) : Condition → Bool
  | .o => f.of
  | .no => !f.of
  | .b => f.cf
  | .ae => !f.cf
  | .e => f.zf
  | .ne => !f.zf
  | .be => f.cf || f.zf
  | .a => !f.cf && !f.zf
  | .s => f.sf
  | .ns => !f.sf
  | .p => f.pf
  | .np => !f.pf
  | .l => f.sf != f.of
  | .ge => f.sf == f.of
  | .le => f.zf || f.sf != f.of
  | .g => !f.zf && f.sf == f.of

/-- The flags `held` with those that `unfixed` marks taken from `drawn` (10_state.md R26). -/
def Flags.read (unfixed held drawn : Flags) : Flags :=
  { cf := if unfixed.cf then drawn.cf else held.cf
    pf := if unfixed.pf then drawn.pf else held.pf
    zf := if unfixed.zf then drawn.zf else held.zf
    sf := if unfixed.sf then drawn.sf else held.sf
    of := if unfixed.of then drawn.of else held.of }

end Sys2Proof

namespace Sys2Proof.Machine

/-- CF bit 0, PF bit 2, ZF bit 6, SF bit 7, OF bit 11 (10_state.md R16). -/
def flagsOf (rflags : Word) : Flags :=
  { cf := rflags.getLsbD 0, pf := rflags.getLsbD 2, zf := rflags.getLsbD 6, sf := rflags.getLsbD 7,
    of := rflags.getLsbD 11 }

/-- What the status flags of a state read as: the bits of EFLAGS, and a draw for each flag that nothing has fixed
(10_state.md R15, R26). -/
def State.flags (s : State) : Flags := Flags.read s.unfixed (flagsOf s.rflags) (Config.freeFlags s.draws)

/-- TF, bit 8 (10_state.md R16). -/
def State.trapFlag (s : State) : Bool := s.rflags.getLsbD 8

/-- VM, bit 17 (10_state.md R16). -/
def State.vmFlag (s : State) : Bool := s.rflags.getLsbD 17

/-- A condition on the flags of a state. -/
def State.test (c : Condition) (s : State) : Bool := s.flags.holds c

/-- The byte a SETcc writes: 01H if the condition holds, 00H if not (40_setcc.md R81). -/
def setValue (b : Bool) : Byte := if b then 1#8 else 0#8

end Sys2Proof.Machine
end

