-- ==== Sys2Proof/Machine/Prefixes.lean ====
section
/-! DEFINITION. What the legacy prefixes of an instruction say: the address size of a memory form, the segment override,
LOCK (30_encoding.md R65, R66, R67). -/

namespace Sys2Proof

/-- The address size `A` by mode, `csD` and the 67H prefix (30_encoding.md R65). -/
def addrSize (c : Ctx) (a67 : Bool) : AddrSize :=
  match c.mode, c.csD with
  | .long64, _ => if a67 then .a32 else .a64
  | .compat, .size32 => if a67 then .a16 else .a32
  | .prot, .size32 => if a67 then .a16 else .a32
  | .compat, .size16 => if a67 then .a32 else .a16
  | .prot, .size16 => if a67 then .a32 else .a16
  | .real, _ => if a67 then .a32 else .a16
  | .v86, _ => if a67 then .a32 else .a16

/-- Two legacy prefixes of one kind: LOCK, segment override or 67H (30_encoding.md R69, R70). -/
def LegacyPrefix.sameKind : LegacyPrefix → LegacyPrefix → Bool
  | .lock, .lock => true
  | .segment _, .segment _ => true
  | .addressSize, .addressSize => true
  | _, _ => false

/-- The segment override among the prefixes, if there is one (30_encoding.md R66). -/
def segmentOverride : List LegacyPrefix → Option SegName
  | [] => none
  | .segment s :: _ => some s
  | _ :: ps => segmentOverride ps

/-- The 67H prefix is present (30_encoding.md R65). -/
def Form.hasAddressSize (f : Form) : Bool := f.prefixes.contains .addressSize

/-- The LOCK prefix is present (30_encoding.md R67). -/
def Form.locked (f : Form) : Bool := f.prefixes.contains .lock

/-- The segment override of the instruction (30_encoding.md R66). -/
def Form.override (f : Form) : Option SegName := segmentOverride f.prefixes

/-- The operand is a byte register (`mod = 3`, 30_encoding.md R54). -/
def RmOperand.isReg : RmOperand → Bool
  | .reg _ => true
  | _ => false

/-- The segment override is admitted: none on a register form, and in 64-bit mode only FS and GS
(30_encoding.md R66). -/
def Form.overrideOk (c : Ctx) (f : Form) : Bool :=
  match f.override with
  | none => true
  | some s => !f.rm.isReg && (c.mode != .long64 || s == .fs || s == .gs)

end Sys2Proof
end

