-- ==== Sys2Proof/WellFormed.lean ====
section
/-! DEFINITION. Which instructions have an encoding that the decoding procedure admits, in a given mode
(30_encoding.md R50 to R71). -/

namespace Sys2Proof

/-- No legacy prefix is repeated and at most one is a segment override (30_encoding.md R66, R69). -/
def prefixesOk : List LegacyPrefix → Bool
  | [] => true
  | p :: ps => !ps.any p.sameKind && prefixesOk ps

/-- The operand has an encoding at address size `a`: 16-bit forms only at `A = 16` (30_encoding.md R63), the others only
at `A` = 32 or 64 (R60), BP, `rm = 5` and SIB `base = 5` never without a displacement (R60, R61, R63), and `rm = 4`
never as a plain base (R60). -/
def RmOperand.wf (a : AddrSize) : RmOperand → Bool
  | .reg _ => true
  | .abs16 _ => a == .a16
  | .based16 b d => a == .a16 && !(b == .bp && d == .none)
  | .direct _ => a != .a16
  | .based rm d => a != .a16 && rm != 4#3 && !(rm == 5#3 && d == .none)
  | .sib _ _ base d => a != .a16 && !(base == 5#3 && d == .none)
  | .sibNoBase _ _ _ => a != .a16

/-- The instruction parts are admitted in mode `c`; a REX prefix only in 64-bit mode (30_encoding.md R58, R76). -/
def Form.wf (c : Ctx) (rex : Option Rex) (f : Form) : Bool :=
  prefixesOk f.prefixes && (rex.isNone || c.mode == .long64) && f.rm.wf (addrSize c f.hasAddressSize)
    && f.overrideOk c

/-- An instruction is well-formed in mode `c` when the decoding procedure of 30_encoding.md R70 admits its bytes. -/
def Instr.wf (c : Ctx) (i : Instr) : Bool := i.form.wf c i.rex

end Sys2Proof
end

