-- ==== Sys2Proof/Decode.lean ====
section
/-! DEFINITION. Decoding and encoding (30_encoding.md R50 to R71): `decode` follows the procedure of R70 and is total on
any bytes; `Instr.encode` writes the bytes of an instruction from the same tables. -/

namespace Sys2Proof

/-! The opcode map (30_encoding.md R51, R52). -/

/-- The condition number `n`, the low four bits of the second opcode byte (30_encoding.md R51, R52). -/
def Condition.number : Condition → BitVec 4
  | .o => 0#4
  | .no => 1#4
  | .b => 2#4
  | .ae => 3#4
  | .e => 4#4
  | .ne => 5#4
  | .be => 6#4
  | .a => 7#4
  | .s => 8#4
  | .ns => 9#4
  | .p => 10#4
  | .np => 11#4
  | .l => 12#4
  | .ge => 13#4
  | .le => 14#4
  | .g => 15#4

/-- The condition of an opcode `0F 9n` (30_encoding.md R52). -/
def conditionOf (n : BitVec 4) : Condition :=
  if n = 0#4 then .o
  else if n = 1#4 then .no
  else if n = 2#4 then .b
  else if n = 3#4 then .ae
  else if n = 4#4 then .e
  else if n = 5#4 then .ne
  else if n = 6#4 then .be
  else if n = 7#4 then .a
  else if n = 8#4 then .s
  else if n = 9#4 then .ns
  else if n = 10#4 then .p
  else if n = 11#4 then .np
  else if n = 12#4 then .l
  else if n = 13#4 then .ge
  else if n = 14#4 then .le
  else .g

/-- The condition in a mnemonic's row of the opcode map (30_encoding.md R52). -/
def Instr.condition : Instr → Condition
  | .seta _ => .a
  | .setaRex _ _ => .a
  | .setae _ => .ae
  | .setaeRex _ _ => .ae
  | .setb _ => .b
  | .setbRex _ _ => .b
  | .setbe _ => .be
  | .setbeRex _ _ => .be
  | .setc _ => .b
  | .setcRex _ _ => .b
  | .sete _ => .e
  | .seteRex _ _ => .e
  | .setg _ => .g
  | .setgRex _ _ => .g
  | .setge _ => .ge
  | .setgeRex _ _ => .ge
  | .setl _ => .l
  | .setlRex _ _ => .l
  | .setle _ => .le
  | .setleRex _ _ => .le
  | .setna _ => .be
  | .setnaRex _ _ => .be
  | .setnae _ => .b
  | .setnaeRex _ _ => .b
  | .setnb _ => .ae
  | .setnbRex _ _ => .ae
  | .setnbe _ => .a
  | .setnbeRex _ _ => .a
  | .setnc _ => .ae
  | .setncRex _ _ => .ae
  | .setne _ => .ne
  | .setneRex _ _ => .ne
  | .setng _ => .le
  | .setngRex _ _ => .le
  | .setnge _ => .l
  | .setngeRex _ _ => .l
  | .setnl _ => .ge
  | .setnlRex _ _ => .ge
  | .setnle _ => .g
  | .setnleRex _ _ => .g
  | .setno _ => .no
  | .setnoRex _ _ => .no
  | .setnp _ => .np
  | .setnpRex _ _ => .np
  | .setns _ => .ns
  | .setnsRex _ _ => .ns
  | .setnz _ => .ne
  | .setnzRex _ _ => .ne
  | .seto _ => .o
  | .setoRex _ _ => .o
  | .setp _ => .p
  | .setpRex _ _ => .p
  | .setpe _ => .p
  | .setpeRex _ _ => .p
  | .setpo _ => .np
  | .setpoRex _ _ => .np
  | .sets _ => .s
  | .setsRex _ _ => .s
  | .setz _ => .e
  | .setzRex _ _ => .e

/-- The instruction of an opcode: the first mnemonic of the opcode in the table's order, since synonyms share their bytes
and a decoder cannot tell them apart (30_encoding.md R53, R75 `primary_of_opcode`). -/
def Instr.ofCondition (c : Condition) (rex : Option Rex) (f : Form) : Instr :=
  match c, rex with
  | .o, none => .seto f
  | .o, some rex => .setoRex rex f
  | .no, none => .setno f
  | .no, some rex => .setnoRex rex f
  | .b, none => .setb f
  | .b, some rex => .setbRex rex f
  | .ae, none => .setae f
  | .ae, some rex => .setaeRex rex f
  | .e, none => .sete f
  | .e, some rex => .seteRex rex f
  | .ne, none => .setne f
  | .ne, some rex => .setneRex rex f
  | .be, none => .setbe f
  | .be, some rex => .setbeRex rex f
  | .a, none => .seta f
  | .a, some rex => .setaRex rex f
  | .s, none => .sets f
  | .s, some rex => .setsRex rex f
  | .ns, none => .setns f
  | .ns, some rex => .setnsRex rex f
  | .p, none => .setp f
  | .p, some rex => .setpRex rex f
  | .np, none => .setnp f
  | .np, some rex => .setnpRex rex f
  | .l, none => .setl f
  | .l, some rex => .setlRex rex f
  | .ge, none => .setge f
  | .ge, some rex => .setgeRex rex f
  | .le, none => .setle f
  | .le, some rex => .setleRex rex f
  | .g, none => .setg f
  | .g, some rex => .setgRex rex f

/-- The instruction a decoder gives for the bytes of `i`: `i` itself or the first of its synonyms
(30_encoding.md R53). -/
def Instr.primary (i : Instr) : Instr := .ofCondition i.condition i.rex i.form

/-! The bytes of the prefixes and fields. -/

/-- The prefix a byte is, if it is one a SETcc may carry (30_encoding.md R50, R65, R66, R67). -/
def prefixOfByte (b : Byte) : Option LegacyPrefix :=
  if b = 0xF0#8 then some .lock
  else if b = 0x26#8 then some (.segment .es)
  else if b = 0x2E#8 then some (.segment .cs)
  else if b = 0x36#8 then some (.segment .ss)
  else if b = 0x3E#8 then some (.segment .ds)
  else if b = 0x64#8 then some (.segment .fs)
  else if b = 0x65#8 then some (.segment .gs)
  else if b = 0x67#8 then some .addressSize
  else none

/-- The byte of a legacy prefix (30_encoding.md R50, R65, R66, R67). -/
def LegacyPrefix.byte : LegacyPrefix → Byte
  | .lock => 0xF0#8
  | .segment .es => 0x26#8
  | .segment .cs => 0x2E#8
  | .segment .ss => 0x36#8
  | .segment .ds => 0x3E#8
  | .segment .fs => 0x64#8
  | .segment .gs => 0x65#8
  | .addressSize => 0x67#8

/-- The prefixes 66H, F2H and F3H, which the model refuses (30_encoding.md R68). -/
def isRefusedPrefix (b : Byte) : Bool := b == 0x66#8 || b == 0xF2#8 || b == 0xF3#8

/-- The bytes 40H to 4FH (30_encoding.md R58). -/
def isRexByte (b : Byte) : Bool := b.extractLsb' 4 4 == 4#4

/-- `W = REX[3]`, `R = REX[2]`, `X = REX[1]`, `B = REX[0]` (30_encoding.md R58). -/
def rexOfByte (b : Byte) : Rex :=
  { w := b.getLsbD 3, r := b.getLsbD 2, x := b.getLsbD 1, b := b.getLsbD 0 }

/-- The byte `0100WRXB` (30_encoding.md R58). -/
def Rex.byte (r : Rex) : Byte :=
  4#4 ++ BitVec.ofBool r.w ++ BitVec.ofBool r.r ++ BitVec.ofBool r.x ++ BitVec.ofBool r.b

/-- `mod ++ reg ++ rm` (30_encoding.md R54). -/
def modrmByte (mod : BitVec 2) (reg rm : BitVec 3) : Byte := mod ++ reg ++ rm

/-- `scale ++ index ++ base` (30_encoding.md R61). -/
def sibByte (scale : BitVec 2) (index base : BitVec 3) : Byte := scale ++ index ++ base

/-- The registers of `rm` in 16-bit addressing (30_encoding.md R63). -/
def base16Of (rm : BitVec 3) : Base16 :=
  if rm = 0#3 then .bxSi
  else if rm = 1#3 then .bxDi
  else if rm = 2#3 then .bpSi
  else if rm = 3#3 then .bpDi
  else if rm = 4#3 then .si
  else if rm = 5#3 then .di
  else if rm = 6#3 then .bp
  else .bx

/-- The `rm` of a 16-bit memory form (30_encoding.md R63). -/
def Base16.number : Base16 → BitVec 3
  | .bxSi => 0#3
  | .bxDi => 1#3
  | .bpSi => 2#3
  | .bpDi => 3#3
  | .si => 4#3
  | .di => 5#3
  | .bp => 6#3
  | .bx => 7#3

/-! Decoding, in the order of 30_encoding.md R70. -/

/-- The verdict on a prefix `p` after the prefixes `seen`: a second segment override is `multiSegPrefix`, a second
LOCK or 67H is `repeatedPrefix` (30_encoding.md R70). -/
def repeatRefusal (p : LegacyPrefix) (seen : List LegacyPrefix) : Option DecodeRefusal :=
  if seen.any p.sameKind then
    match p with
    | .segment _ => some .multiSegPrefix
    | _ => some .repeatedPrefix
  else none

/-- The prefix loop of 30_encoding.md R70: the legacy prefixes in order, and the bytes after them. -/
def decodePrefixes (seen : List LegacyPrefix) : List Byte → Except DecodeRefusal (List LegacyPrefix × List Byte)
  | [] => .error .truncated
  | b :: bs =>
    match prefixOfByte b with
    | some p =>
      match repeatRefusal p seen with
      | some e => .error e
      | none =>
        match decodePrefixes (p :: seen) bs with
        | .error e => .error e
        | .ok (ps, rest) => .ok (p :: ps, rest)
    | none => if isRefusedPrefix b then .error .undefinedPrefix else .ok ([], b :: bs)

/-- The REX prefix, in 64-bit mode only (30_encoding.md R58, R70, R76). -/
def decodeRex (c : Ctx) : List Byte → Option Rex × List Byte
  | [] => (none, [])
  | b :: bs => if c.mode = .long64 ∧ isRexByte b = true then (some (rexOfByte b), bs) else (none, b :: bs)

/-- The opcode `0F 9n`: the condition number and the bytes after it (30_encoding.md R51, R70). -/
def decodeOpcode : List Byte → Except DecodeRefusal (BitVec 4 × List Byte)
  | [] => .error .truncated
  | b :: bs =>
    if b = 0x0F#8 then
      match bs with
      | [] => .error .truncated
      | op :: rest => if op.extractLsb' 4 4 = 9#4 then .ok (op.extractLsb' 0 4, rest) else .error .notSetcc
    else .error .notSetcc

/-- `disp8 = d0` (30_encoding.md R64). -/
def take8 : List Byte → Except DecodeRefusal (BitVec 8 × List Byte)
  | d0 :: rest => .ok (d0, rest)
  | _ => .error .truncated

/-- `disp16 = d1 ++ d0` (30_encoding.md R64). -/
def take16 : List Byte → Except DecodeRefusal (BitVec 16 × List Byte)
  | d0 :: d1 :: rest => .ok (d1 ++ d0, rest)
  | _ => .error .truncated

/-- `disp32 = d3 ++ d2 ++ d1 ++ d0` (30_encoding.md R64). -/
def take32 : List Byte → Except DecodeRefusal (BitVec 32 × List Byte)
  | d0 :: d1 :: d2 :: d3 :: rest => .ok (d3 ++ d2 ++ d1 ++ d0, rest)
  | _ => .error .truncated

/-- The result of a displacement reader with its value wrapped in an operand. -/
def withDisp {α : Type} (wrap : α → RmOperand) :
    Except DecodeRefusal (α × List Byte) → Except DecodeRefusal (RmOperand × List Byte)
  | .error e => .error e
  | .ok (d, rest) => .ok (wrap d, rest)

/-- The 16-bit memory forms, `mod` = 0, 1 or 2 (30_encoding.md R63). -/
def decodeMem16 (mod : BitVec 2) (rm : BitVec 3) (bs : List Byte) : Except DecodeRefusal (RmOperand × List Byte) :=
  if mod = 0#2 then
    if rm = 6#3 then withDisp .abs16 (take16 bs) else .ok (.based16 (base16Of rm) .none, bs)
  else if mod = 1#2 then withDisp (fun d => .based16 (base16Of rm) (.disp8 d)) (take8 bs)
  else withDisp (fun d => .based16 (base16Of rm) (.disp16 d)) (take16 bs)

/-- The forms with a SIB byte, `mod` = 0, 1 or 2 (30_encoding.md R61). -/
def decodeSib (mod : BitVec 2) : List Byte → Except DecodeRefusal (RmOperand × List Byte)
  | [] => .error .truncated
  | sib :: bs =>
    let scale := sib.extractLsb' 6 2
    let index := sib.extractLsb' 3 3
    let base := sib.extractLsb' 0 3
    if mod = 0#2 then
      if base = 5#3 then withDisp (.sibNoBase scale index) (take32 bs) else .ok (.sib scale index base .none, bs)
    else if mod = 1#2 then withDisp (fun d => .sib scale index base (.disp8 d)) (take8 bs)
    else withDisp (fun d => .sib scale index base (.disp32 d)) (take32 bs)

/-- The 32- and 64-bit memory forms, `mod` = 0, 1 or 2 (30_encoding.md R60). -/
def decodeMem32 (mod : BitVec 2) (rm : BitVec 3) (bs : List Byte) : Except DecodeRefusal (RmOperand × List Byte) :=
  if rm = 4#3 then decodeSib mod bs
  else if mod = 0#2 then
    if rm = 5#3 then withDisp .direct (take32 bs) else .ok (.based rm .none, bs)
  else if mod = 1#2 then withDisp (fun d => .based rm (.disp8 d)) (take8 bs)
  else withDisp (fun d => .based rm (.disp32 d)) (take32 bs)

/-- The operand of a ModR/M byte at address size `a` (30_encoding.md R54, R70). -/
def decodeRm (a : AddrSize) (modrm : Byte) (bs : List Byte) : Except DecodeRefusal (RmOperand × List Byte) :=
  let mod := modrm.extractLsb' 6 2
  let rm := modrm.extractLsb' 0 3
  if mod = 3#2 then .ok (.reg rm, bs)
  else if a = .a16 then decodeMem16 mod rm bs
  else decodeMem32 mod rm bs

/-- The verdict on a segment override once the operand is known (30_encoding.md R66, R70). -/
def overrideRefusal (c : Ctx) (f : Form) : Option DecodeRefusal :=
  if f.overrideOk c then none
  else if f.rm.isReg then some .segPrefixOnReg
  else some .nullSegPrefix

/-! Lengths (30_encoding.md R69). -/

/-- The displacement bytes of a 16-bit form. -/
def Disp16.length : Disp16 → Nat
  | .none => 0
  | .disp8 _ => 1
  | .disp16 _ => 2

/-- The displacement bytes of a 32- or 64-bit form. -/
def Disp32.length : Disp32 → Nat
  | .none => 0
  | .disp8 _ => 1
  | .disp32 _ => 4

/-- The SIB byte, if there is one, and the displacement bytes of an operand. -/
def RmOperand.length : RmOperand → Nat
  | .reg _ => 0
  | .abs16 _ => 2
  | .based16 _ d => d.length
  | .direct _ => 4
  | .based _ d => d.length
  | .sib _ _ _ d => 1 + d.length
  | .sibNoBase _ _ _ => 5

/-- `len`: legacy prefixes, REX, two opcode bytes, ModR/M, SIB and displacement (30_encoding.md R69). -/
def Form.length (rex : Option Rex) (f : Form) : Nat :=
  f.prefixes.length + (if rex.isSome then 1 else 0) + 2 + 1 + f.rm.length

/-- The length in bytes of an instruction (30_encoding.md R69). -/
def Instr.length (i : Instr) : Nat := i.form.length i.rex

/-- `MAX_INSN_LEN` (00_scope.md R5, 30_encoding.md R69). -/
def maxInsnLen : Nat := 15

/-- The decoding procedure of 30_encoding.md R70: the instruction at the head of the bytes and the bytes after it, or the
name of the refusal. -/
def decode (c : Ctx) (bs : List Byte) : Except DecodeRefusal (Instr × List Byte) :=
  match decodePrefixes [] bs with
  | .error e => .error e
  | .ok (ps, bs1) =>
    let (rex, bs2) := decodeRex c bs1
    match decodeOpcode bs2 with
    | .error e => .error e
    | .ok (_, []) => .error .truncated
    | .ok (n, modrm :: bs3) =>
      match decodeRm (addrSize c (ps.contains .addressSize)) modrm bs3 with
      | .error e => .error e
      | .ok (rm, rest) =>
        let f : Form := { prefixes := ps, reg := modrm.extractLsb' 3 3, rm := rm }
        match overrideRefusal c f with
        | some e => .error e
        | none =>
          if f.length rex ≤ maxInsnLen then .ok (.ofCondition (conditionOf n) rex f, rest) else .error .tooLong

/-! Encoding, from the same tables. -/

/-- The bytes of a disp16, least significant first (30_encoding.md R64). -/
def bytes16 (d : BitVec 16) : List Byte := [d.extractLsb' 0 8, d.extractLsb' 8 8]

/-- The bytes of a disp32, least significant first (30_encoding.md R64). -/
def bytes32 (d : BitVec 32) : List Byte :=
  [d.extractLsb' 0 8, d.extractLsb' 8 8, d.extractLsb' 16 8, d.extractLsb' 24 8]

/-- The `mod` of a 16-bit form by its displacement (30_encoding.md R63). -/
def Disp16.mod : Disp16 → BitVec 2
  | .none => 0#2
  | .disp8 _ => 1#2
  | .disp16 _ => 2#2

/-- The bytes of the displacement of a 16-bit form. -/
def Disp16.bytes : Disp16 → List Byte
  | .none => []
  | .disp8 d => [d]
  | .disp16 d => bytes16 d

/-- The `mod` of a 32- or 64-bit form by its displacement (30_encoding.md R60). -/
def Disp32.mod : Disp32 → BitVec 2
  | .none => 0#2
  | .disp8 _ => 1#2
  | .disp32 _ => 2#2

/-- The bytes of the displacement of a 32- or 64-bit form. -/
def Disp32.bytes : Disp32 → List Byte
  | .none => []
  | .disp8 d => [d]
  | .disp32 d => bytes32 d

/-- The ModR/M byte, the SIB byte and the displacement of an operand (30_encoding.md R54, R60, R61, R63, R64). -/
def RmOperand.encode (reg : BitVec 3) : RmOperand → List Byte
  | .reg rm => [modrmByte 3#2 reg rm]
  | .abs16 d => modrmByte 0#2 reg 6#3 :: bytes16 d
  | .based16 b d => modrmByte d.mod reg b.number :: d.bytes
  | .direct d => modrmByte 0#2 reg 5#3 :: bytes32 d
  | .based rm d => modrmByte d.mod reg rm :: d.bytes
  | .sib scale index base d => modrmByte d.mod reg 4#3 :: sibByte scale index base :: d.bytes
  | .sibNoBase scale index d => modrmByte 0#2 reg 4#3 :: sibByte scale index 5#3 :: bytes32 d

/-- The bytes of a SETcc: `[legacy prefixes]* [REX]? 0F 9n ModRM [SIB]? [disp]?` (30_encoding.md R50, R51). -/
def Instr.encode (i : Instr) : List Byte :=
  i.form.prefixes.map LegacyPrefix.byte ++ (i.rex.map Rex.byte).toList
    ++ [0x0F#8, 9#4 ++ i.condition.number] ++ i.form.rm.encode i.form.reg

/-! The numbering of spec/opcode_table.json (assumption log 19). -/

/-- The `nbits / 8` bytes of `w` with the first byte most significant, as 30_encoding.md R75 and the table number
them. -/
def bytesFirstHigh (nbits w : Nat) : List Byte :=
  (List.range (nbits / 8)).map fun k => BitVec.ofNat 8 (w >>> (8 * (nbits / 8 - 1 - k)))

/-- The `nbits / 8` bytes of `w` with the first byte least significant. -/
def bytesFirstLow (nbits w : Nat) : List Byte :=
  (List.range (nbits / 8)).map fun k => BitVec.ofNat 8 (w >>> (8 * k))

/-- The bytes followed by zeros, up to `MAX_INSN_LEN` bytes. -/
def padded (bs : List Byte) : List Byte := bs ++ List.replicate (maxInsnLen - bs.length) 0#8

/-- The first of the bytes is a REX prefix, which only 64-bit mode has (30_encoding.md R76). -/
def startsWithRex : List Byte → Bool
  | [] => false
  | b :: _ => isRexByte b

/-- The mode an opcode-table word is decoded in: 64-bit mode if it begins with REX, else the mode after reset
(assumption log 19). -/
def tableCtx (bs : List Byte) : Ctx :=
  { mode := if startsWithRex bs then .long64 else .real, csD := .size16 }

/-- The decoder admits the bytes. -/
def admits (c : Ctx) (bs : List Byte) : Bool :=
  match decode c bs with
  | .ok _ => true
  | .error _ => false

/-- The bytes of an opcode-table word as they lie in memory: the table's own numbering puts the first byte highest; where
the decoder refuses that, the first byte lowest (assumption log 19). -/
def tableBytes (nbits w : Nat) : List Byte :=
  let high := padded (bytesFirstHigh nbits w)
  let low := padded (bytesFirstLow nbits w)
  if admits (tableCtx high) high then high else if admits (tableCtx low) low then low else high

/-- The instruction the decoder reads from an instruction whose bits are `w`, numbered as spec/opcode_table.json numbers
them; every bit above `nbits` is 0. -/
def decodeTableWord (nbits w : Nat) : Option Instr :=
  let bs := tableBytes nbits w
  match decode (tableCtx bs) bs with
  | .ok (i, _) => some i
  | .error _ => none

end Sys2Proof
end

