-- ==== Sys2Proof/Machine/Operands.lean ====
section
/-! DEFINITION. The operand r/m8 of a SETcc: which byte register, or which segment and effective address
(30_encoding.md R54 to R66). -/

namespace Sys2Proof

/-- A value truncated to the address size and zero-extended again: `Rn(i)` and every sum modulo 2^A
(30_encoding.md R60, R63). -/
def AddrSize.trunc : AddrSize → Word → Word
  | .a16, v => (v.setWidth 16).setWidth 64
  | .a32, v => (v.setWidth 32).setWidth 64
  | .a64, v => v

/-- `b ++ field`, the four-bit number of a register whose top bit is a REX bit (30_encoding.md R57, R59). -/
def extend (bit : Bool) (field : BitVec 3) : BitVec 4 := BitVec.ofBool bit ++ field

/-- REX.B, 0 when there is no REX prefix (30_encoding.md R60). -/
def rexB : Option Rex → Bool
  | some r => r.b
  | none => false

/-- REX.X, 0 when there is no REX prefix (30_encoding.md R60). -/
def rexX : Option Rex → Bool
  | some r => r.x
  | none => false

/-- The byte register of a register form: without REX, AL CL DL BL AH CH DH BH (30_encoding.md R56); with any REX
prefix, bits 7:0 of register `REX.B ++ rm` (R57). -/
def byteRegister (rex : Option Rex) (rm : BitVec 3) : Reg8 :=
  match rex with
  | some r => .low (extend r.b rm)
  | none => if rm.getLsbD 2 then .high (rm.extractLsb' 0 2) else .low (extend false rm)

/-- A displacement of a 16-bit form, disp8 sign-extended (30_encoding.md R63, R64). -/
def Disp16.value : Disp16 → Word
  | .none => 0
  | .disp8 d => d.signExtend 64
  | .disp16 d => d.setWidth 64

/-- A displacement of a 32- or 64-bit form, sign-extended; at `A = 32` the sum is truncated after it
(30_encoding.md R60, R64). -/
def Disp32.value : Disp32 → Word
  | .none => 0
  | .disp8 d => d.signExtend 64
  | .disp32 d => d.signExtend 64

end Sys2Proof

namespace Sys2Proof.Machine

/-- The decoded destination: a byte register, or the byte at effective address `ea` in segment `s`
(30_encoding.md R50). -/
inductive Dest where
  | reg (k : Reg8)
  | mem (s : SegName) (ea : Word)
  deriving DecidableEq, Repr

/-- General register number `i` (00_scope.md R7, 10_state.md R11). -/
def State.reg (s : State) (i : BitVec 4) : Word := s.regs[i.toNat]'i.isLt

/-- The register part of a 16-bit form; BX, BP, SI, DI are the low halves of registers 3, 5, 6, 7
(30_encoding.md R63). -/
def Base16.value (s : State) : Base16 → Word
  | .bxSi => s.reg 3 + s.reg 6
  | .bxDi => s.reg 3 + s.reg 7
  | .bpSi => s.reg 5 + s.reg 6
  | .bpDi => s.reg 5 + s.reg 7
  | .si => s.reg 6
  | .di => s.reg 7
  | .bp => s.reg 5
  | .bx => s.reg 3

/-- `indexval * 2^scale`: no index when `REX.X ++ index` is 4 (30_encoding.md R61). -/
def scaledIndex (s : State) (rex : Option Rex) (scale : BitVec 2) (index : BitVec 3) : Word :=
  if extend (rexX rex) index = 4#4 then 0 else s.reg (extend (rexX rex) index) <<< scale.toNat

/-- The effective address of a memory form of length `len` at address size `a`, reduced modulo 2^A
(30_encoding.md R60 to R63). -/
def effectiveAddress (s : State) (a : AddrSize) (rex : Option Rex) (len : Nat) (rm : RmOperand) : Word :=
  a.trunc <|
    match rm with
    | .reg _ => 0
    | .abs16 d => d.setWidth 64
    | .based16 b d => Base16.value s b + d.value
    | .direct d => (if s.mode = .long64 then s.pc + BitVec.ofNat 64 len else 0) + d.signExtend 64
    | .based rm d => s.reg (extend (rexB rex) rm) + d.value
    | .sib scale index base d =>
      s.reg (extend (rexB rex) base) + scaledIndex s rex scale index + d.value
    | .sibNoBase scale index d => d.signExtend 64 + scaledIndex s rex scale index

/-- SS for a base register numbered 4 or 5 (rSP or rBP), else DS (30_encoding.md R66). -/
def segmentOfBase (i : BitVec 4) : SegName := if i = 4#4 ∨ i = 5#4 then .ss else .ds

/-- The default segment of a memory form (30_encoding.md R63, R66). -/
def defaultSegment (rex : Option Rex) : RmOperand → SegName
  | .reg _ => .ds
  | .abs16 _ => .ds
  | .based16 .bpSi _ => .ss
  | .based16 .bpDi _ => .ss
  | .based16 .bp _ => .ss
  | .based16 _ _ => .ds
  | .direct _ => .ds
  | .based rm _ => segmentOfBase (extend (rexB rex) rm)
  | .sib _ _ base _ => segmentOfBase (extend (rexB rex) base)
  | .sibNoBase _ _ _ => .ds

/-- The segment of a memory form: the override if there is one, else the default (30_encoding.md R66). -/
def segmentOf (rex : Option Rex) (f : Form) : SegName :=
  match f.override with
  | some seg => seg
  | none => defaultSegment rex f.rm

/-- The effective address of an instruction in a state. -/
def effectiveAddressOf (s : State) (rex : Option Rex) (f : Form) : Word :=
  effectiveAddress s (addrSize s.ctx f.hasAddressSize) rex (f.length rex) f.rm

/-- The destination of an instruction (30_encoding.md R50, R70). -/
def destination (s : State) (rex : Option Rex) (f : Form) : Dest :=
  match f.rm with
  | .reg rm => .reg (byteRegister rex rm)
  | _ => .mem (segmentOf rex f) (effectiveAddressOf s rex f)

end Sys2Proof.Machine
end

