-- ==== Sys2Proof/Machine/Ops.lean ====
section
/-! DEFINITION. The named operations over registers, memory, addresses and exceptions (10_state.md R12 to R14;
20_memory.md R36 to R47; 60_exceptions.md R130 to R150), and the one operation every SETcc is (40_setcc.md R81, R82). -/

namespace Sys2Proof

/-- The number of the general register a byte register is part of (10_state.md R12). -/
def Reg8.number : Reg8 → BitVec 4
  | .low i => i
  | .high i => 0#2 ++ i

/-- The value of a general register after a write of `v` to the byte register `k` in it: `x[63:8] ++ v`, or
`x[63:16] ++ v ++ x[7:0]` (10_state.md R13). -/
def Reg8.insert (k : Reg8) (v : Byte) (x : Word) : Word :=
  match k with
  | .low _ => x.extractLsb' 8 56 ++ v
  | .high _ => x.extractLsb' 16 48 ++ v ++ x.extractLsb' 0 8

end Sys2Proof

namespace Sys2Proof.Machine

/-- The outcomes of one step. -/
abbrev Result := Host.Outcome State Fault Refusal

/-! Byte registers (10_state.md R12, R13). -/

/-- `r8[k]` (00_scope.md R7, 10_state.md R12). -/
def State.readReg8 (s : State) (k : Reg8) : Byte :=
  match k with
  | .low _ => (s.reg k.number).extractLsb' 0 8
  | .high _ => (s.reg k.number).extractLsb' 8 8

/-- `x[i] <- v` (00_scope.md R7). -/
def State.setReg (s : State) (i : BitVec 4) (v : Word) : State := { s with regs := s.regs.set i.toNat v i.isLt }

/-- `r8[k] <- v`: those 8 bits and no others (10_state.md R13). -/
def State.writeReg8 (s : State) (k : Reg8) (v : Byte) : State :=
  s.setReg k.number (k.insert v (s.reg k.number))

/-- `pc <- v` at the end of an instruction (00_scope.md R7); its reading of the flags is over, so the next one is a new draw
(10_state.md R26). -/
def State.retire (s : State) (v : Word) : State := { s with pc := v, draws := s.draws + 1 }

/-! Memory (20_memory.md R31, R37). -/

/-- What an address that memory does not list reads as: no value (DESIGN CHOICE, safe, assumption log 3). -/
def Memory.unlisted : Option Byte := none

/-- The byte at a physical address. -/
def Memory.read : Memory → Nat → Option Byte
  | [], _ => Memory.unlisted
  | (b, v) :: m, a => if a = b then some v else Memory.read m a

/-- Memory with `v` at physical address `a`, in the canonical form. -/
def Memory.write : Memory → Nat → Byte → Memory
  | [], a, v => [(a, v)]
  | (b, w) :: m, a, v =>
    if a < b then (a, v) :: (b, w) :: m
    else if a = b then (a, v) :: m
    else (b, w) :: Memory.write m a v

/-- The canonical form from address `lo` on: addresses strictly rising, each at least `lo` and below 2^64, and no entry
equal to what an unlisted address reads as. -/
def Memory.wfFrom (lo : Nat) : Memory → Bool
  | [] => true
  | (b, v) :: m => decide (lo ≤ b) && decide (b < 2 ^ 64) && (some v != Memory.unlisted) && Memory.wfFrom (b + 1) m

/-- The canonical form of memory. -/
def Memory.wf (m : Memory) : Bool := Memory.wfFrom 0 m

/-- The byte of memory at a physical address. -/
def State.readByte (s : State) (p : Word) : Option Byte := Memory.read s.mem p.toNat

/-- Memory with the byte `v` at a physical address. -/
def State.writeByte (s : State) (p : Word) (v : Byte) : State := { s with mem := Memory.write s.mem p.toNat v }

/-! Segments and linear addresses (10_state.md R18, 20_memory.md R38, R39, R41). -/

/-- The segment register of a name (10_state.md R18). -/
def SegFile.get (g : SegFile) : SegName → SegReg
  | .es => g.es
  | .cs => g.cs
  | .ss => g.ss
  | .ds => g.ds
  | .fs => g.fs
  | .gs => g.gs

/-- `seg[s]` (00_scope.md R7). -/
def State.seg (s : State) (n : SegName) : SegReg := s.segs.get n

/-- `null`: bits 15:2 of the selector are all zero (10_state.md R18). -/
def SegReg.isNull (r : SegReg) : Bool := r.selector.extractLsb' 2 14 == 0#14

/-- `linear(s, ea)` (20_memory.md R38). -/
def State.linear (s : State) (n : SegName) (ea : Word) : Word :=
  match s.mode with
  | .real | .v86 =>
    let a := ((s.seg n).base + ea).setWidth 32
    if s.cfg.a20Masked then (a.setWidth 20).setWidth 64 else a.setWidth 64
  | .prot | .compat => (((s.seg n).base + ea).setWidth 32).setWidth 64
  | .long64 =>
    match n with
    | .fs | .gs => (s.seg n).base + ea
    | _ => ea

/-- Canonical form: `sext_64(a[VA_BITS-1:0]) = a` (20_memory.md R39). -/
def canonical (v : VaBits) (a : Word) : Bool :=
  match v with
  | .va48 => (a.setWidth 48).signExtend 64 == a
  | .va57 => (a.setWidth 57).signExtend 64 == a

/-- The upper bound of an expand-down segment by its B flag (20_memory.md R41). -/
def SegReg.upper (r : SegReg) : Word := if r.big then 0xFFFFFFFF else 0xFFFF

/-- `outsideLimit(s, ea)`, for expand-up and expand-down segments (20_memory.md R41). -/
def SegReg.outsideLimit (r : SegReg) (ea : Word) : Bool :=
  if r.expandDown then decide (ea ≤ r.limit.setWidth 64) || decide (r.upper < ea)
  else decide (r.limit.setWidth 64 < ea)

/-- `nonWritable(s)`; a code segment is never writable in protected and compatibility mode, the only modes that test it
(20_memory.md R41, 60_exceptions.md R132, assumption log 10). -/
def State.nonWritable (s : State) (n : SegName) : Bool := n == .cs || !(s.seg n).writable

/-- The segment or canonical-form check on a destination byte, by mode, and the exception it raises
(20_memory.md R41; 60_exceptions.md R132 to R135, R137 to R140, R142 to R144, R148). -/
def State.segmentFault (s : State) (n : SegName) (ea : Word) : Option Fault :=
  match s.mode with
  | .prot | .compat =>
    if n = .ss then
      if (s.seg n).outsideLimit ea then some (.ss (some 0))
      else if s.nonWritable n then some (.gp (some 0))
      else none
    else if s.nonWritable n || (s.seg n).outsideLimit ea || (n != .cs && (s.seg n).isNull) then some (.gp (some 0))
    else none
  | .real =>
    if (s.seg n).outsideLimit ea then
      if n = .ss then some (.ss none) else some (.gp none)
    else none
  | .v86 =>
    if (s.seg n).outsideLimit ea then
      if n = .ss then some (.ss (some 0)) else some (.gp (some 0))
    else none
  | .long64 =>
    if canonical s.cfg.vaBits (s.linear n ea) then none
    else if n = .ss then some (.ss (some 0))
    else some (.gp (some 0))

/-! Translation (20_memory.md R40). -/

/-- The current privilege level: the low two bits of the CS selector, 3 in virtual-8086 mode, 0 in real-address mode,
which has no privilege levels (60_exceptions.md R141, R154). -/
def State.cpl (s : State) : BitVec 2 :=
  match s.mode with
  | .real => 0
  | .v86 => 3
  | .prot | .compat | .long64 => s.segs.cs.selector.extractLsb' 0 2

/-- `user = (CPL = 3)` (20_memory.md R40). -/
def State.user (s : State) : Bool := s.cpl == 3#2

/-- Paging: never in real-address mode, by CR0.PG in protected and virtual-8086 mode, always in compatibility and 64-bit
mode (20_memory.md R40, 60_exceptions.md R138, R145, assumption log 15). -/
def State.pagingOn (s : State) : Bool :=
  match s.mode with
  | .real => false
  | .prot | .v86 => s.paging
  | .compat | .long64 => true

/-- The model argument `Translate`: its table, and the identity where the table is silent (20_memory.md R40, D11). -/
def translateBy : List TranslateEntry → Word → Bool → Bool → TranslateResult
  | [], linear, _, _ => .ok linear
  | e :: es, linear, write, user =>
    if e.linear = linear ∧ e.write = write ∧ e.user = user then e.result else translateBy es linear write user

/-- From a linear to a physical address; the identity, never a fault, when paging is off (20_memory.md R40). -/
def State.translate (s : State) (linear : Word) (write : Bool) : TranslateResult :=
  if s.pagingOn then translateBy s.cfg.translations linear write s.user else .ok linear

/-- `PlainMemory(addr)` (20_memory.md R36). -/
def State.plainMemory (s : State) (p : Word) : Bool :=
  !s.cfg.deviceWindows.any fun w => decide (w.first ≤ p) && decide (p ≤ w.last)

/-- The physical address of the destination byte, or the exception its access raises: segment or canonical checks first,
then translation with write access (60_exceptions.md R136, R141, R145, R148; 40_setcc.md R82 step 4). -/
def State.resolve (s : State) (n : SegName) (ea : Word) : Except Fault Word :=
  match s.segmentFault n ea with
  | some x => .error x
  | none =>
    match s.translate (s.linear n ea) true with
    | .pageFault code => .error (.pf code (s.linear n ea))
    | .ok p => .ok p

/-! Instruction fetch and the program text (20_memory.md R45, R47; 70_reset_and_hazards.md R176). -/

/-- The offset in the code segment lies in the program text (70_reset_and_hazards.md R176). -/
def State.inText (s : State) (a : Word) : Bool :=
  decide (s.text.base.toNat ≤ a.toNat) && decide (a.toNat < s.text.base.toNat + s.text.length)

/-- Where the byte at an offset in the code segment lies: through CS, translated for a read (20_memory.md R47; 00_scope.md
R7, `MemRead`; assumption log 1). -/
def State.textAddress (s : State) (a : Word) : Option Word :=
  match s.translate (s.linear .cs a) false with
  | .ok p => some p
  | .pageFault _ => none

/-- `Fetch(a)`: the byte of program text at an offset in the code segment; none outside the text (00_scope.md R7,
20_memory.md R47). -/
def State.fetchByte (s : State) (a : Word) : Option Byte :=
  if s.inText a then
    match s.textAddress a with
    | some p => s.readByte p
    | none => none
  else none

/-- The program text has its byte number `k` at physical address `p`. -/
def State.textByteAt (s : State) (p : Word) (k : Nat) : Bool :=
  s.textAddress (s.text.base + BitVec.ofNat 64 k) == some p

/-- The physical address lies inside the program text (20_memory.md R45). -/
def State.inTextPhysical (s : State) (p : Word) : Bool := (List.range s.text.length).any (s.textByteAt p)

/-- Up to `n` bytes of program text from offset `a` upward, ending where the text does (20_memory.md R47). -/
def State.fetchFrom (s : State) (a : Word) : Nat → List Byte
  | 0 => []
  | n + 1 =>
    match s.fetchByte a with
    | some b => b :: State.fetchFrom s (a + 1) n
    | none => []

/-- The bytes at `pc`, at most `MAX_INSN_LEN` of them (20_memory.md R47, 30_encoding.md R69). -/
def State.fetchWindow (s : State) : List Byte := s.fetchFrom s.pc maxInsnLen

/-- `Done`: `pc = base + length(P)` exactly (70_reset_and_hazards.md R176). -/
def State.done (s : State) : Bool := s.pc.toNat == s.text.base.toNat + s.text.length

/-! The instruction pointer (10_state.md R14). -/

/-- The `len` bytes from `pc` on and `pc + len` itself stay in the instruction pointer's range for the mode: below 2^64 and
canonical in 64-bit mode, at most the CS limit elsewhere (10_state.md R14, D5, assumption log 12). -/
def State.pcInRange (s : State) (len : Nat) : Bool :=
  match s.mode with
  | .long64 =>
    decide (s.pc.toNat + len < 2 ^ 64)
      && (List.range (len + 1)).all fun k => canonical s.cfg.vaBits (s.pc + BitVec.ofNat 64 k)
  | _ => decide (s.pc.toNat + len ≤ s.segs.cs.limit.toNat)

/-- `pc + len`, or none where the model refuses (10_state.md R14). -/
def State.nextPc (s : State) (len : Nat) : Option Word :=
  if s.pcInRange len then some (s.pc + BitVec.ofNat 64 len) else none

/-! Taking an exception (60_exceptions.md R130, R149, R150). -/

/-- `raise #XX(info)`: the terminal outcome `Fault(name, errorCode, faultAddress)`; nothing is written, no handler runs and
no state is saved, so there is no return from it (60_exceptions.md R149, R150, R151, decision D12). -/
def raise (x : Fault) : Result := .fault x

/-- The vector number of an exception (60_exceptions.md R130). -/
def Fault.vector : Fault → Nat
  | .ud => 6
  | .ss _ => 12
  | .gp _ => 13
  | .pf _ _ => 14

/-- `errorCode` of the outcome `Fault` (60_exceptions.md R130, R150). -/
def Fault.errorCode : Fault → Option (BitVec 32)
  | .ud => none
  | .ss e => e
  | .gp e => e
  | .pf code _ => some code

/-- `faultAddress` of the outcome `Fault`, for #PF only (60_exceptions.md R150). -/
def Fault.faultAddress : Fault → Option Word
  | .pf _ a => some a
  | _ => none

/-! The operation of every SETcc (40_setcc.md R81, R82). -/

/-- A store the model refuses: into the program text (20_memory.md R45), or to a byte that is not plain memory (R36). -/
def State.storeRefusal (s : State) (p : Word) : Option Refusal :=
  if s.inTextPhysical p then some .storeToText
  else if s.plainMemory p then none
  else some .notPlainMemory

/-- `DEST <- v`, then `pc <- pc'`; a memory destination is resolved first and an exception writes nothing
(40_setcc.md R81, R82 steps 4 and 5). -/
def State.complete (s : State) (d : Dest) (v : Byte) (pc' : Word) : Result :=
  match d with
  | .reg k => .next ((s.writeReg8 k v).retire pc')
  | .mem n ea =>
    match s.resolve n ea with
    | .error x => raise x
    | .ok p =>
      match s.storeRefusal p with
      | some r => .refused r
      | none => .next ((s.writeByte p v).retire pc')

/-- The one operation of the family: write 01H or 00H to the destination by the condition `b`, then advance `pc`; LOCK
raises #UD before any operand check (40_setcc.md R81, R82). -/
def setByte (b : Bool) (rex : Option Rex) (f : Form) (s : State) : Result :=
  if f.wf s.ctx rex then
    match s.nextPc (f.length rex) with
    | none => .refused .pcWrap
    | some pc' => if f.locked then raise .ud else s.complete (destination s rex f) (setValue b) pc'
  else .refused .illFormed

end Sys2Proof.Machine
end

