-- ==== Sys2Proof/Machine/Equality.lean ====
section
/-! DEFINITION. The meanings of the SETcc on ZF
(40_setcc.md; 10_state.md R15). Each is the operation of 40_setcc.md R81 with the condition of its own rule, without and
with a REX prefix. -/

namespace Sys2Proof.Machine

/-- SETE r/m8 (40_setcc.md R95): set byte if ZF=1. -/
def execSete (f : Form) (s : State) : Result := setByte (s.test .e) none f s

/-- SETE r/m8 with a REX prefix (40_setcc.md R95). -/
def execSeteRex (rex : Rex) (f : Form) (s : State) : Result := setByte (s.test .e) (some rex) f s

/-- SETNE r/m8 (40_setcc.md R105): set byte if ZF=0. -/
def execSetne (f : Form) (s : State) : Result := setByte (s.test .ne) none f s

/-- SETNE r/m8 with a REX prefix (40_setcc.md R105). -/
def execSetneRex (rex : Rex) (f : Form) (s : State) : Result := setByte (s.test .ne) (some rex) f s

/-- SETNZ r/m8 (40_setcc.md R113): set byte if ZF=0. -/
def execSetnz (f : Form) (s : State) : Result := setByte (s.test .ne) none f s

/-- SETNZ r/m8 with a REX prefix (40_setcc.md R113). -/
def execSetnzRex (rex : Rex) (f : Form) (s : State) : Result := setByte (s.test .ne) (some rex) f s

/-- SETZ r/m8 (40_setcc.md R119): set byte if ZF=1. -/
def execSetz (f : Form) (s : State) : Result := setByte (s.test .e) none f s

/-- SETZ r/m8 with a REX prefix (40_setcc.md R119). -/
def execSetzRex (rex : Rex) (f : Form) (s : State) : Result := setByte (s.test .e) (some rex) f s

end Sys2Proof.Machine
end

