-- ==== Sys2Proof/Machine/Signed.lean ====
section
/-! DEFINITION. The meanings of the SETcc on SF, OF and ZF that relate signed integers
(40_setcc.md; 10_state.md R15). Each is the operation of 40_setcc.md R81 with the condition of its own rule, without and
with a REX prefix. -/

namespace Sys2Proof.Machine

/-- SETG r/m8 (40_setcc.md R96): set byte if ZF=0 and SF=OF. -/
def execSetg (f : Form) (s : State) : Result := setByte (s.test .g) none f s

/-- SETG r/m8 with a REX prefix (40_setcc.md R96). -/
def execSetgRex (rex : Rex) (f : Form) (s : State) : Result := setByte (s.test .g) (some rex) f s

/-- SETGE r/m8 (40_setcc.md R97): set byte if SF=OF. -/
def execSetge (f : Form) (s : State) : Result := setByte (s.test .ge) none f s

/-- SETGE r/m8 with a REX prefix (40_setcc.md R97). -/
def execSetgeRex (rex : Rex) (f : Form) (s : State) : Result := setByte (s.test .ge) (some rex) f s

/-- SETL r/m8 (40_setcc.md R98): set byte if SF≠ OF. -/
def execSetl (f : Form) (s : State) : Result := setByte (s.test .l) none f s

/-- SETL r/m8 with a REX prefix (40_setcc.md R98). -/
def execSetlRex (rex : Rex) (f : Form) (s : State) : Result := setByte (s.test .l) (some rex) f s

/-- SETLE r/m8 (40_setcc.md R99): set byte if ZF=1 or SF≠ OF. -/
def execSetle (f : Form) (s : State) : Result := setByte (s.test .le) none f s

/-- SETLE r/m8 with a REX prefix (40_setcc.md R99). -/
def execSetleRex (rex : Rex) (f : Form) (s : State) : Result := setByte (s.test .le) (some rex) f s

/-- SETNG r/m8 (40_setcc.md R106): set byte if ZF=1 or SF≠ OF. -/
def execSetng (f : Form) (s : State) : Result := setByte (s.test .le) none f s

/-- SETNG r/m8 with a REX prefix (40_setcc.md R106). -/
def execSetngRex (rex : Rex) (f : Form) (s : State) : Result := setByte (s.test .le) (some rex) f s

/-- SETNGE r/m8 (40_setcc.md R107): set byte if SF≠ OF. -/
def execSetnge (f : Form) (s : State) : Result := setByte (s.test .l) none f s

/-- SETNGE r/m8 with a REX prefix (40_setcc.md R107). -/
def execSetngeRex (rex : Rex) (f : Form) (s : State) : Result := setByte (s.test .l) (some rex) f s

/-- SETNL r/m8 (40_setcc.md R108): set byte if SF=OF. -/
def execSetnl (f : Form) (s : State) : Result := setByte (s.test .ge) none f s

/-- SETNL r/m8 with a REX prefix (40_setcc.md R108). -/
def execSetnlRex (rex : Rex) (f : Form) (s : State) : Result := setByte (s.test .ge) (some rex) f s

/-- SETNLE r/m8 (40_setcc.md R109): set byte if ZF=0 and SF=OF. -/
def execSetnle (f : Form) (s : State) : Result := setByte (s.test .g) none f s

/-- SETNLE r/m8 with a REX prefix (40_setcc.md R109). -/
def execSetnleRex (rex : Rex) (f : Form) (s : State) : Result := setByte (s.test .g) (some rex) f s

end Sys2Proof.Machine
end

