-- ==== Sys2Proof/Machine/SingleFlag.lean ====
section
/-! DEFINITION. The meanings of the SETcc on OF, SF or PF alone
(40_setcc.md; 10_state.md R15). Each is the operation of 40_setcc.md R81 with the condition of its own rule, without and
with a REX prefix. -/

namespace Sys2Proof.Machine

/-- SETNO r/m8 (40_setcc.md R110): set byte if OF=0. -/
def execSetno (f : Form) (s : State) : Result := setByte (s.test .no) none f s

/-- SETNO r/m8 with a REX prefix (40_setcc.md R110). -/
def execSetnoRex (rex : Rex) (f : Form) (s : State) : Result := setByte (s.test .no) (some rex) f s

/-- SETNP r/m8 (40_setcc.md R111): set byte if PF=0. -/
def execSetnp (f : Form) (s : State) : Result := setByte (s.test .np) none f s

/-- SETNP r/m8 with a REX prefix (40_setcc.md R111). -/
def execSetnpRex (rex : Rex) (f : Form) (s : State) : Result := setByte (s.test .np) (some rex) f s

/-- SETNS r/m8 (40_setcc.md R112): set byte if SF=0. -/
def execSetns (f : Form) (s : State) : Result := setByte (s.test .ns) none f s

/-- SETNS r/m8 with a REX prefix (40_setcc.md R112). -/
def execSetnsRex (rex : Rex) (f : Form) (s : State) : Result := setByte (s.test .ns) (some rex) f s

/-- SETO r/m8 (40_setcc.md R114): set byte if OF=1. -/
def execSeto (f : Form) (s : State) : Result := setByte (s.test .o) none f s

/-- SETO r/m8 with a REX prefix (40_setcc.md R114). -/
def execSetoRex (rex : Rex) (f : Form) (s : State) : Result := setByte (s.test .o) (some rex) f s

/-- SETP r/m8 (40_setcc.md R115): set byte if PF=1. -/
def execSetp (f : Form) (s : State) : Result := setByte (s.test .p) none f s

/-- SETP r/m8 with a REX prefix (40_setcc.md R115). -/
def execSetpRex (rex : Rex) (f : Form) (s : State) : Result := setByte (s.test .p) (some rex) f s

/-- SETPE r/m8 (40_setcc.md R116): set byte if PF=1. -/
def execSetpe (f : Form) (s : State) : Result := setByte (s.test .p) none f s

/-- SETPE r/m8 with a REX prefix (40_setcc.md R116). -/
def execSetpeRex (rex : Rex) (f : Form) (s : State) : Result := setByte (s.test .p) (some rex) f s

/-- SETPO r/m8 (40_setcc.md R117): set byte if PF=0. -/
def execSetpo (f : Form) (s : State) : Result := setByte (s.test .np) none f s

/-- SETPO r/m8 with a REX prefix (40_setcc.md R117). -/
def execSetpoRex (rex : Rex) (f : Form) (s : State) : Result := setByte (s.test .np) (some rex) f s

/-- SETS r/m8 (40_setcc.md R118): set byte if SF=1. -/
def execSets (f : Form) (s : State) : Result := setByte (s.test .s) none f s

/-- SETS r/m8 with a REX prefix (40_setcc.md R118). -/
def execSetsRex (rex : Rex) (f : Form) (s : State) : Result := setByte (s.test .s) (some rex) f s

end Sys2Proof.Machine
end

