-- ==== Sys2Proof/Machine/Unsigned.lean ====
section
/-! DEFINITION. The meanings of the SETcc on CF and ZF that relate unsigned integers, carry included
(40_setcc.md; 10_state.md R15). Each is the operation of 40_setcc.md R81 with the condition of its own rule, without and
with a REX prefix. -/

namespace Sys2Proof.Machine

/-- SETA r/m8 (40_setcc.md R90): set byte if CF=0 and ZF=0. -/
def execSeta (f : Form) (s : State) : Result := setByte (s.test .a) none f s

/-- SETA r/m8 with a REX prefix (40_setcc.md R90). -/
def execSetaRex (rex : Rex) (f : Form) (s : State) : Result := setByte (s.test .a) (some rex) f s

/-- SETAE r/m8 (40_setcc.md R91): set byte if CF=0. -/
def execSetae (f : Form) (s : State) : Result := setByte (s.test .ae) none f s

/-- SETAE r/m8 with a REX prefix (40_setcc.md R91). -/
def execSetaeRex (rex : Rex) (f : Form) (s : State) : Result := setByte (s.test .ae) (some rex) f s

/-- SETB r/m8 (40_setcc.md R92): set byte if CF=1. -/
def execSetb (f : Form) (s : State) : Result := setByte (s.test .b) none f s

/-- SETB r/m8 with a REX prefix (40_setcc.md R92). -/
def execSetbRex (rex : Rex) (f : Form) (s : State) : Result := setByte (s.test .b) (some rex) f s

/-- SETBE r/m8 (40_setcc.md R93): set byte if CF=1 or ZF=1. -/
def execSetbe (f : Form) (s : State) : Result := setByte (s.test .be) none f s

/-- SETBE r/m8 with a REX prefix (40_setcc.md R93). -/
def execSetbeRex (rex : Rex) (f : Form) (s : State) : Result := setByte (s.test .be) (some rex) f s

/-- SETC r/m8 (40_setcc.md R94): set byte if CF=1. -/
def execSetc (f : Form) (s : State) : Result := setByte (s.test .b) none f s

/-- SETC r/m8 with a REX prefix (40_setcc.md R94). -/
def execSetcRex (rex : Rex) (f : Form) (s : State) : Result := setByte (s.test .b) (some rex) f s

/-- SETNA r/m8 (40_setcc.md R100): set byte if CF=1 or ZF=1. -/
def execSetna (f : Form) (s : State) : Result := setByte (s.test .be) none f s

/-- SETNA r/m8 with a REX prefix (40_setcc.md R100). -/
def execSetnaRex (rex : Rex) (f : Form) (s : State) : Result := setByte (s.test .be) (some rex) f s

/-- SETNAE r/m8 (40_setcc.md R101): set byte if CF=1. -/
def execSetnae (f : Form) (s : State) : Result := setByte (s.test .b) none f s

/-- SETNAE r/m8 with a REX prefix (40_setcc.md R101). -/
def execSetnaeRex (rex : Rex) (f : Form) (s : State) : Result := setByte (s.test .b) (some rex) f s

/-- SETNB r/m8 (40_setcc.md R102): set byte if CF=0. -/
def execSetnb (f : Form) (s : State) : Result := setByte (s.test .ae) none f s

/-- SETNB r/m8 with a REX prefix (40_setcc.md R102). -/
def execSetnbRex (rex : Rex) (f : Form) (s : State) : Result := setByte (s.test .ae) (some rex) f s

/-- SETNBE r/m8 (40_setcc.md R103): set byte if CF=0 and ZF=0. -/
def execSetnbe (f : Form) (s : State) : Result := setByte (s.test .a) none f s

/-- SETNBE r/m8 with a REX prefix (40_setcc.md R103). -/
def execSetnbeRex (rex : Rex) (f : Form) (s : State) : Result := setByte (s.test .a) (some rex) f s

/-- SETNC r/m8 (40_setcc.md R104): set byte if CF=0. -/
def execSetnc (f : Form) (s : State) : Result := setByte (s.test .ae) none f s

/-- SETNC r/m8 with a REX prefix (40_setcc.md R104). -/
def execSetncRex (rex : Rex) (f : Form) (s : State) : Result := setByte (s.test .ae) (some rex) f s

end Sys2Proof.Machine
end

