-- ==== Sys2Proof/Machine/Dispatch.lean ====
section
/-! DEFINITION. One arm per constructor of `Instr`. -/

namespace Sys2Proof.Machine

def exec (i : Instr) (s : State) : Host.Outcome State Fault Refusal :=
  match i with
  | .seta f => Sys2Proof.Machine.execSeta f s
  | .setaRex rex f => Sys2Proof.Machine.execSetaRex rex f s
  | .setae f => Sys2Proof.Machine.execSetae f s
  | .setaeRex rex f => Sys2Proof.Machine.execSetaeRex rex f s
  | .setb f => Sys2Proof.Machine.execSetb f s
  | .setbRex rex f => Sys2Proof.Machine.execSetbRex rex f s
  | .setbe f => Sys2Proof.Machine.execSetbe f s
  | .setbeRex rex f => Sys2Proof.Machine.execSetbeRex rex f s
  | .setc f => Sys2Proof.Machine.execSetc f s
  | .setcRex rex f => Sys2Proof.Machine.execSetcRex rex f s
  | .sete f => Sys2Proof.Machine.execSete f s
  | .seteRex rex f => Sys2Proof.Machine.execSeteRex rex f s
  | .setg f => Sys2Proof.Machine.execSetg f s
  | .setgRex rex f => Sys2Proof.Machine.execSetgRex rex f s
  | .setge f => Sys2Proof.Machine.execSetge f s
  | .setgeRex rex f => Sys2Proof.Machine.execSetgeRex rex f s
  | .setl f => Sys2Proof.Machine.execSetl f s
  | .setlRex rex f => Sys2Proof.Machine.execSetlRex rex f s
  | .setle f => Sys2Proof.Machine.execSetle f s
  | .setleRex rex f => Sys2Proof.Machine.execSetleRex rex f s
  | .setna f => Sys2Proof.Machine.execSetna f s
  | .setnaRex rex f => Sys2Proof.Machine.execSetnaRex rex f s
  | .setnae f => Sys2Proof.Machine.execSetnae f s
  | .setnaeRex rex f => Sys2Proof.Machine.execSetnaeRex rex f s
  | .setnb f => Sys2Proof.Machine.execSetnb f s
  | .setnbRex rex f => Sys2Proof.Machine.execSetnbRex rex f s
  | .setnbe f => Sys2Proof.Machine.execSetnbe f s
  | .setnbeRex rex f => Sys2Proof.Machine.execSetnbeRex rex f s
  | .setnc f => Sys2Proof.Machine.execSetnc f s
  | .setncRex rex f => Sys2Proof.Machine.execSetncRex rex f s
  | .setne f => Sys2Proof.Machine.execSetne f s
  | .setneRex rex f => Sys2Proof.Machine.execSetneRex rex f s
  | .setng f => Sys2Proof.Machine.execSetng f s
  | .setngRex rex f => Sys2Proof.Machine.execSetngRex rex f s
  | .setnge f => Sys2Proof.Machine.execSetnge f s
  | .setngeRex rex f => Sys2Proof.Machine.execSetngeRex rex f s
  | .setnl f => Sys2Proof.Machine.execSetnl f s
  | .setnlRex rex f => Sys2Proof.Machine.execSetnlRex rex f s
  | .setnle f => Sys2Proof.Machine.execSetnle f s
  | .setnleRex rex f => Sys2Proof.Machine.execSetnleRex rex f s
  | .setno f => Sys2Proof.Machine.execSetno f s
  | .setnoRex rex f => Sys2Proof.Machine.execSetnoRex rex f s
  | .setnp f => Sys2Proof.Machine.execSetnp f s
  | .setnpRex rex f => Sys2Proof.Machine.execSetnpRex rex f s
  | .setns f => Sys2Proof.Machine.execSetns f s
  | .setnsRex rex f => Sys2Proof.Machine.execSetnsRex rex f s
  | .setnz f => Sys2Proof.Machine.execSetnz f s
  | .setnzRex rex f => Sys2Proof.Machine.execSetnzRex rex f s
  | .seto f => Sys2Proof.Machine.execSeto f s
  | .setoRex rex f => Sys2Proof.Machine.execSetoRex rex f s
  | .setp f => Sys2Proof.Machine.execSetp f s
  | .setpRex rex f => Sys2Proof.Machine.execSetpRex rex f s
  | .setpe f => Sys2Proof.Machine.execSetpe f s
  | .setpeRex rex f => Sys2Proof.Machine.execSetpeRex rex f s
  | .setpo f => Sys2Proof.Machine.execSetpo f s
  | .setpoRex rex f => Sys2Proof.Machine.execSetpoRex rex f s
  | .sets f => Sys2Proof.Machine.execSets f s
  | .setsRex rex f => Sys2Proof.Machine.execSetsRex rex f s
  | .setz f => Sys2Proof.Machine.execSetz f s
  | .setzRex rex f => Sys2Proof.Machine.execSetzRex rex f s

end Sys2Proof.Machine
end

