-- ==== Sys2Proof/Machine/Fetch.lean ====
section
/-! DEFINITION. What a step does with the bytes at `pc` before it runs an instruction (20_memory.md R47, 60_exceptions.md
R158), and placing an instruction where the next step fetches it (assumption log 1, 20). -/

namespace Sys2Proof.Machine

/-- The debug premise fails: EFLAGS.TF is 1 or a breakpoint is armed (60_exceptions.md R158). -/
def State.debugActive (s : State) : Bool := s.trapFlag || s.breakpointArmed

/-- The refusal for bytes that do not decode. Where they end before the instruction does, the run is at its end
(70_reset_and_hazards.md R176), or the byte that is missing lies beyond the instruction pointer's range (10_state.md R14)
or outside the program text (20_memory.md R47); assumption log 13. -/
def State.decodeRefusal (s : State) : DecodeRefusal → Refusal
  | .truncated =>
    if s.done then .done
    else if s.pcInRange (s.fetchWindow.length + 1) then .fetchOutsideText
    else .pcWrap
  | e => .decoding e

/-- The instruction at `pc`, or why there is none (30_encoding.md R70, 40_setcc.md R82 step 1). -/
def State.nextInstr (s : State) : Except Refusal Instr :=
  if s.debugActive then .error .debugActive
  else
    match decode s.ctx s.fetchWindow with
    | .ok (i, _) => .ok i
    | .error e => .error (s.decodeRefusal e)

/-- The bytes in memory from offset `a` in CS on, each where the fetch reads it. -/
def State.placeBytes (s : State) (a : Word) : List Byte → State
  | [] => s
  | b :: bs =>
    match s.textAddress a with
    | some p => State.placeBytes (s.writeByte p b) (a + 1) bs
    | none => State.placeBytes s (a + 1) bs

/-- The mode in which the bytes are an instruction: a REX prefix needs 64-bit mode (30_encoding.md R76). -/
def State.enterModeOf (s : State) (bs : List Byte) : State := if startsWithRex bs then { s with mode := .long64 } else s

/-- The bytes as the program text at `pc`. -/
def State.withProgram (s : State) (bs : List Byte) : State :=
  let t := { s with text := { base := s.pc, length := bs.length } }
  t.placeBytes t.pc bs

end Sys2Proof.Machine
end

