-- ==== Sys2Proof/Machine/Step.lean ====
section
/-! DEFINITION. One step of the machine (40_setcc.md R82, 70_reset_and_hazards.md R176). -/

namespace Sys2Proof.Machine

/-- One step: the instruction at `pc` is fetched, decoded and executed. -/
def step (s : State) : Host.Outcome State Fault Refusal :=
  match s.nextInstr with
  | .error r => .refused r
  | .ok i => exec i s

/-- The state with the instruction whose bits are `w` (numbered as spec/opcode_table.json numbers them, zeros above) loaded
as the program text at `pc`; a word with a REX prefix needs 64-bit mode (assumption log 1, 19, 20). -/
def State.withFetchWord (s : State) (nbits w : Nat) : State :=
  let bs := tableBytes nbits w
  (s.enterModeOf bs).withProgram bs

end Sys2Proof.Machine
end

