-- ==== Sys2Proof/Machine/Run.lean ====
section
/-! DEFINITION. A run and its terminal outcomes (70_reset_and_hazards.md R176; 60_exceptions.md R150). -/

namespace Sys2Proof.Machine

/-- How a run ends (70_reset_and_hazards.md R176): `Done(state)`, `Fault(...)` with the state before the SETcc that raised
it (60_exceptions.md R149, R150), `Refused(reason)` with the state it was met in; `unfinished` when the steps allowed are
used up. -/
inductive RunOutcome where
  | done (final : State)
  | fault (x : Fault) (before : State)
  | refused (why : Refusal) (before : State)
  | unfinished (reached : State)
  deriving DecidableEq, Repr

/-- What a refusal of `step` means for a run: the end of the text is `Done`. -/
def RunOutcome.ofRefusal (s : State) : Refusal → RunOutcome
  | .done => .done s
  | why => .refused why s

/-- A run of at most `n` steps. -/
def run : Nat → State → RunOutcome
  | 0, s => .unfinished s
  | n + 1, s =>
    match step s with
    | .next t => run n t
    | .fault x => .fault x s
    | .refused why => .ofRefusal s why

/-- The run of the program text from a state: it completes at most `length(P) / 3` steps, and the one after that ends it
(70_reset_and_hazards.md R176). -/
def State.outcome (s : State) : RunOutcome := run (s.text.length / 3 + 1) s

end Sys2Proof.Machine
end

