-- ==== Sys2Proof/Safety.lean ====
section
/-! DEFINITION. The terms claims are stated in: when a SETcc completes and what it leaves, and what is true of every state
a launch may supply and every step keeps (40_setcc.md R82; 70_reset_and_hazards.md R172, R173). -/

namespace Sys2Proof.Machine

/-- The physical address a memory form stores to, if its address raises no exception; none for a register form
(40_setcc.md R81, 60_exceptions.md R148). -/
def State.storesTo (s : State) (rex : Option Rex) (f : Form) : Option Word :=
  match destination s rex f with
  | .reg _ => none
  | .mem n ea =>
    match s.resolve n ea with
    | .ok p => some p
    | .error _ => none

/-- The destination can be written: a register always, a memory byte if its address raises no exception and the store is
not refused (70_reset_and_hazards.md R172 (b), (c)). -/
def State.destinationReady (s : State) (rex : Option Rex) (f : Form) : Bool :=
  f.rm.isReg ||
    match s.storesTo rex f with
    | some p => (s.storeRefusal p).isNone
    | none => false

/-- The instruction parts are encodable in the mode, and their bytes and the next `pc` are in range: step (1) of
40_setcc.md R82. -/
def State.issues (s : State) (rex : Option Rex) (f : Form) : Bool := f.wf s.ctx rex && s.pcInRange (f.length rex)

/-- Nothing stops the instruction: it issues, carries no LOCK prefix, and its destination can be written
(40_setcc.md R82). -/
def State.ready (s : State) (rex : Option Rex) (f : Form) : Bool :=
  s.issues rex f && !f.locked && s.destinationReady rex f

/-- The instruction issues, carries no LOCK prefix, and its destination is the byte at `ea` in segment `n`: what the
memory rows of the exception tables presuppose (60_exceptions.md R132 to R145, R148). -/
def State.addresses (s : State) (i : Instr) (n : SegName) (ea : Word) : Prop :=
  s.issues i.rex i.form = true ∧ i.form.locked = false ∧ destination s i.rex i.form = .mem n ea

/-- The state after `DEST <- 01H or 00H ; pc <- pc + len` (40_setcc.md R81), the next reading of the flags being a new draw
(10_state.md R26). -/
def State.afterSet (s : State) (b : Bool) (rex : Option Rex) (f : Form) : State :=
  let pc' := s.pc + BitVec.ofNat 64 (f.length rex)
  match f.rm, s.storesTo rex f with
  | .reg rm, _ => (s.writeReg8 (byteRegister rex rm) (setValue b)).retire pc'
  | _, some p => (s.writeByte p (setValue b)).retire pc'
  | _, none => s

/-- The reserved bits of EFLAGS read as the spec says: bit 1 as 1; bits 3, 5, 15 and 22 to 63 as 0 (10_state.md R16). -/
def reservedFlagsOk (rflags : Word) : Bool :=
  rflags.getLsbD 1 && !rflags.getLsbD 3 && !rflags.getLsbD 5 && !rflags.getLsbD 15 && rflags.extractLsb' 22 42 == 0#42

/-- The instruction pointer is a legal one for the mode: canonical in 64-bit mode, within the CS limit elsewhere
(10_state.md R14). -/
def State.pcLegal (s : State) : Bool :=
  match s.mode with
  | .long64 => canonical s.cfg.vaBits s.pc
  | _ => decide (s.pc.toNat ≤ s.segs.cs.limit.toNat)

/-- The invariant of the machine: memory is in its canonical form, the reserved bits of EFLAGS read as they must, EFLAGS.VM
agrees with the mode (10_state.md R16, R20), and the instruction pointer is legal (R14). -/
def State.inv (s : State) : Bool :=
  Memory.wf s.mem && reservedFlagsOk s.rflags && (s.vmFlag == decide (s.mode = .v86)) && s.pcLegal

/-- What no step of SETcc changes besides the destination, `pc` and the number of the next draw: flags, mode, segments, paging, program text,
breakpoints and the model arguments (40_setcc.md R83; 70_reset_and_hazards.md R173 `ModeFixed`). -/
def State.sameSetting (s t : State) : Prop :=
  t.rflags = s.rflags ∧ t.unfixed = s.unfixed ∧ t.mode = s.mode ∧ t.csD = s.csD ∧ t.paging = s.paging ∧ t.segs = s.segs ∧ t.text = s.text ∧
    t.breakpointArmed = s.breakpointArmed ∧ t.cfg = s.cfg

end Sys2Proof.Machine
end

