-- ==== Sys2Proof/Laws/State.lean ====
section
/-! SUPPORT. One lemma per field per update of `State`, and per derived reading that the update does not touch. -/

namespace Sys2Proof.Machine

variable (s : State)

@[simp] theorem State.retire_regs (v : Word) : (s.retire v).regs = s.regs := rfl
@[simp] theorem State.retire_pc (v : Word) : (s.retire v).pc = v := rfl
@[simp] theorem State.retire_rflags (v : Word) : (s.retire v).rflags = s.rflags := rfl
@[simp] theorem State.retire_unfixed (v : Word) : (s.retire v).unfixed = s.unfixed := rfl
@[simp] theorem State.retire_draws (v : Word) : (s.retire v).draws = s.draws + 1 := rfl
@[simp] theorem State.retire_mode (v : Word) : (s.retire v).mode = s.mode := rfl
@[simp] theorem State.retire_csD (v : Word) : (s.retire v).csD = s.csD := rfl
@[simp] theorem State.retire_paging (v : Word) : (s.retire v).paging = s.paging := rfl
@[simp] theorem State.retire_segs (v : Word) : (s.retire v).segs = s.segs := rfl
@[simp] theorem State.retire_mem (v : Word) : (s.retire v).mem = s.mem := rfl
@[simp] theorem State.retire_text (v : Word) : (s.retire v).text = s.text := rfl
@[simp] theorem State.retire_breakpointArmed (v : Word) : (s.retire v).breakpointArmed = s.breakpointArmed := rfl
@[simp] theorem State.retire_cfg (v : Word) : (s.retire v).cfg = s.cfg := rfl
@[simp] theorem State.retire_ctx (v : Word) : (s.retire v).ctx = s.ctx := rfl
@[simp] theorem State.retire_trapFlag (v : Word) : (s.retire v).trapFlag = s.trapFlag := rfl
@[simp] theorem State.retire_vmFlag (v : Word) : (s.retire v).vmFlag = s.vmFlag := rfl
@[simp] theorem State.retire_pagingOn (v : Word) : (s.retire v).pagingOn = s.pagingOn := rfl
@[simp] theorem State.retire_cpl (v : Word) : (s.retire v).cpl = s.cpl := rfl
@[simp] theorem State.retire_user (v : Word) : (s.retire v).user = s.user := rfl
@[simp] theorem State.retire_seg (v : Word) (n : SegName) : (s.retire v).seg n = s.seg n := rfl
@[simp] theorem State.retire_linear (v : Word) (n : SegName) (ea : Word) : (s.retire v).linear n ea = s.linear n ea := rfl
@[simp] theorem State.retire_translate (v : Word) (l : Word) (w : Bool) : (s.retire v).translate l w = s.translate l w := rfl
@[simp] theorem State.retire_inText (v : Word) (o : Word) : (s.retire v).inText o = s.inText o := rfl
@[simp] theorem State.retire_textAddress (v : Word) (o : Word) : (s.retire v).textAddress o = s.textAddress o := rfl

@[simp] theorem State.setReg_regs (i : BitVec 4) (v : Word) : (s.setReg i v).regs = s.regs.set i.toNat v i.isLt := rfl
@[simp] theorem State.setReg_pc (i : BitVec 4) (v : Word) : (s.setReg i v).pc = s.pc := rfl
@[simp] theorem State.setReg_rflags (i : BitVec 4) (v : Word) : (s.setReg i v).rflags = s.rflags := rfl
@[simp] theorem State.setReg_unfixed (i : BitVec 4) (v : Word) : (s.setReg i v).unfixed = s.unfixed := rfl
@[simp] theorem State.setReg_draws (i : BitVec 4) (v : Word) : (s.setReg i v).draws = s.draws := rfl
@[simp] theorem State.setReg_mode (i : BitVec 4) (v : Word) : (s.setReg i v).mode = s.mode := rfl
@[simp] theorem State.setReg_csD (i : BitVec 4) (v : Word) : (s.setReg i v).csD = s.csD := rfl
@[simp] theorem State.setReg_paging (i : BitVec 4) (v : Word) : (s.setReg i v).paging = s.paging := rfl
@[simp] theorem State.setReg_segs (i : BitVec 4) (v : Word) : (s.setReg i v).segs = s.segs := rfl
@[simp] theorem State.setReg_mem (i : BitVec 4) (v : Word) : (s.setReg i v).mem = s.mem := rfl
@[simp] theorem State.setReg_text (i : BitVec 4) (v : Word) : (s.setReg i v).text = s.text := rfl
@[simp] theorem State.setReg_breakpointArmed (i : BitVec 4) (v : Word) : (s.setReg i v).breakpointArmed = s.breakpointArmed := rfl
@[simp] theorem State.setReg_cfg (i : BitVec 4) (v : Word) : (s.setReg i v).cfg = s.cfg := rfl
@[simp] theorem State.setReg_ctx (i : BitVec 4) (v : Word) : (s.setReg i v).ctx = s.ctx := rfl
@[simp] theorem State.setReg_flags (i : BitVec 4) (v : Word) : (s.setReg i v).flags = s.flags := rfl
@[simp] theorem State.setReg_trapFlag (i : BitVec 4) (v : Word) : (s.setReg i v).trapFlag = s.trapFlag := rfl
@[simp] theorem State.setReg_vmFlag (i : BitVec 4) (v : Word) : (s.setReg i v).vmFlag = s.vmFlag := rfl
@[simp] theorem State.setReg_pagingOn (i : BitVec 4) (v : Word) : (s.setReg i v).pagingOn = s.pagingOn := rfl
@[simp] theorem State.setReg_cpl (i : BitVec 4) (v : Word) : (s.setReg i v).cpl = s.cpl := rfl
@[simp] theorem State.setReg_user (i : BitVec 4) (v : Word) : (s.setReg i v).user = s.user := rfl
@[simp] theorem State.setReg_test (i : BitVec 4) (v : Word) (c : Condition) : (s.setReg i v).test c = s.test c := rfl
@[simp] theorem State.setReg_seg (i : BitVec 4) (v : Word) (n : SegName) : (s.setReg i v).seg n = s.seg n := rfl
@[simp] theorem State.setReg_linear (i : BitVec 4) (v : Word) (n : SegName) (ea : Word) : (s.setReg i v).linear n ea = s.linear n ea := rfl
@[simp] theorem State.setReg_translate (i : BitVec 4) (v : Word) (l : Word) (w : Bool) : (s.setReg i v).translate l w = s.translate l w := rfl
@[simp] theorem State.setReg_inText (i : BitVec 4) (v : Word) (o : Word) : (s.setReg i v).inText o = s.inText o := rfl
@[simp] theorem State.setReg_textAddress (i : BitVec 4) (v : Word) (o : Word) : (s.setReg i v).textAddress o = s.textAddress o := rfl

@[simp] theorem State.writeReg8_regs (k : Reg8) (v : Byte) : (s.writeReg8 k v).regs = s.regs.set k.number.toNat (k.insert v (s.reg k.number)) k.number.isLt := rfl
@[simp] theorem State.writeReg8_pc (k : Reg8) (v : Byte) : (s.writeReg8 k v).pc = s.pc := rfl
@[simp] theorem State.writeReg8_rflags (k : Reg8) (v : Byte) : (s.writeReg8 k v).rflags = s.rflags := rfl
@[simp] theorem State.writeReg8_unfixed (k : Reg8) (v : Byte) : (s.writeReg8 k v).unfixed = s.unfixed := rfl
@[simp] theorem State.writeReg8_draws (k : Reg8) (v : Byte) : (s.writeReg8 k v).draws = s.draws := rfl
@[simp] theorem State.writeReg8_mode (k : Reg8) (v : Byte) : (s.writeReg8 k v).mode = s.mode := rfl
@[simp] theorem State.writeReg8_csD (k : Reg8) (v : Byte) : (s.writeReg8 k v).csD = s.csD := rfl
@[simp] theorem State.writeReg8_paging (k : Reg8) (v : Byte) : (s.writeReg8 k v).paging = s.paging := rfl
@[simp] theorem State.writeReg8_segs (k : Reg8) (v : Byte) : (s.writeReg8 k v).segs = s.segs := rfl
@[simp] theorem State.writeReg8_mem (k : Reg8) (v : Byte) : (s.writeReg8 k v).mem = s.mem := rfl
@[simp] theorem State.writeReg8_text (k : Reg8) (v : Byte) : (s.writeReg8 k v).text = s.text := rfl
@[simp] theorem State.writeReg8_breakpointArmed (k : Reg8) (v : Byte) : (s.writeReg8 k v).breakpointArmed = s.breakpointArmed := rfl
@[simp] theorem State.writeReg8_cfg (k : Reg8) (v : Byte) : (s.writeReg8 k v).cfg = s.cfg := rfl
@[simp] theorem State.writeReg8_ctx (k : Reg8) (v : Byte) : (s.writeReg8 k v).ctx = s.ctx := rfl
@[simp] theorem State.writeReg8_flags (k : Reg8) (v : Byte) : (s.writeReg8 k v).flags = s.flags := rfl
@[simp] theorem State.writeReg8_trapFlag (k : Reg8) (v : Byte) : (s.writeReg8 k v).trapFlag = s.trapFlag := rfl
@[simp] theorem State.writeReg8_vmFlag (k : Reg8) (v : Byte) : (s.writeReg8 k v).vmFlag = s.vmFlag := rfl
@[simp] theorem State.writeReg8_pagingOn (k : Reg8) (v : Byte) : (s.writeReg8 k v).pagingOn = s.pagingOn := rfl
@[simp] theorem State.writeReg8_cpl (k : Reg8) (v : Byte) : (s.writeReg8 k v).cpl = s.cpl := rfl
@[simp] theorem State.writeReg8_user (k : Reg8) (v : Byte) : (s.writeReg8 k v).user = s.user := rfl
@[simp] theorem State.writeReg8_test (k : Reg8) (v : Byte) (c : Condition) : (s.writeReg8 k v).test c = s.test c := rfl
@[simp] theorem State.writeReg8_seg (k : Reg8) (v : Byte) (n : SegName) : (s.writeReg8 k v).seg n = s.seg n := rfl
@[simp] theorem State.writeReg8_linear (k : Reg8) (v : Byte) (n : SegName) (ea : Word) : (s.writeReg8 k v).linear n ea = s.linear n ea := rfl
@[simp] theorem State.writeReg8_translate (k : Reg8) (v : Byte) (l : Word) (w : Bool) : (s.writeReg8 k v).translate l w = s.translate l w := rfl
@[simp] theorem State.writeReg8_inText (k : Reg8) (v : Byte) (o : Word) : (s.writeReg8 k v).inText o = s.inText o := rfl
@[simp] theorem State.writeReg8_textAddress (k : Reg8) (v : Byte) (o : Word) : (s.writeReg8 k v).textAddress o = s.textAddress o := rfl

@[simp] theorem State.writeByte_regs (p : Word) (v : Byte) : (s.writeByte p v).regs = s.regs := rfl
@[simp] theorem State.writeByte_pc (p : Word) (v : Byte) : (s.writeByte p v).pc = s.pc := rfl
@[simp] theorem State.writeByte_rflags (p : Word) (v : Byte) : (s.writeByte p v).rflags = s.rflags := rfl
@[simp] theorem State.writeByte_unfixed (p : Word) (v : Byte) : (s.writeByte p v).unfixed = s.unfixed := rfl
@[simp] theorem State.writeByte_draws (p : Word) (v : Byte) : (s.writeByte p v).draws = s.draws := rfl
@[simp] theorem State.writeByte_mode (p : Word) (v : Byte) : (s.writeByte p v).mode = s.mode := rfl
@[simp] theorem State.writeByte_csD (p : Word) (v : Byte) : (s.writeByte p v).csD = s.csD := rfl
@[simp] theorem State.writeByte_paging (p : Word) (v : Byte) : (s.writeByte p v).paging = s.paging := rfl
@[simp] theorem State.writeByte_segs (p : Word) (v : Byte) : (s.writeByte p v).segs = s.segs := rfl
@[simp] theorem State.writeByte_mem (p : Word) (v : Byte) : (s.writeByte p v).mem = Memory.write s.mem p.toNat v := rfl
@[simp] theorem State.writeByte_text (p : Word) (v : Byte) : (s.writeByte p v).text = s.text := rfl
@[simp] theorem State.writeByte_breakpointArmed (p : Word) (v : Byte) : (s.writeByte p v).breakpointArmed = s.breakpointArmed := rfl
@[simp] theorem State.writeByte_cfg (p : Word) (v : Byte) : (s.writeByte p v).cfg = s.cfg := rfl
@[simp] theorem State.writeByte_ctx (p : Word) (v : Byte) : (s.writeByte p v).ctx = s.ctx := rfl
@[simp] theorem State.writeByte_flags (p : Word) (v : Byte) : (s.writeByte p v).flags = s.flags := rfl
@[simp] theorem State.writeByte_trapFlag (p : Word) (v : Byte) : (s.writeByte p v).trapFlag = s.trapFlag := rfl
@[simp] theorem State.writeByte_vmFlag (p : Word) (v : Byte) : (s.writeByte p v).vmFlag = s.vmFlag := rfl
@[simp] theorem State.writeByte_pagingOn (p : Word) (v : Byte) : (s.writeByte p v).pagingOn = s.pagingOn := rfl
@[simp] theorem State.writeByte_cpl (p : Word) (v : Byte) : (s.writeByte p v).cpl = s.cpl := rfl
@[simp] theorem State.writeByte_user (p : Word) (v : Byte) : (s.writeByte p v).user = s.user := rfl
@[simp] theorem State.writeByte_test (p : Word) (v : Byte) (c : Condition) : (s.writeByte p v).test c = s.test c := rfl
@[simp] theorem State.writeByte_seg (p : Word) (v : Byte) (n : SegName) : (s.writeByte p v).seg n = s.seg n := rfl
@[simp] theorem State.writeByte_linear (p : Word) (v : Byte) (n : SegName) (ea : Word) : (s.writeByte p v).linear n ea = s.linear n ea := rfl
@[simp] theorem State.writeByte_translate (p : Word) (v : Byte) (l : Word) (w : Bool) : (s.writeByte p v).translate l w = s.translate l w := rfl
@[simp] theorem State.writeByte_inText (p : Word) (v : Byte) (o : Word) : (s.writeByte p v).inText o = s.inText o := rfl
@[simp] theorem State.writeByte_textAddress (p : Word) (v : Byte) (o : Word) : (s.writeByte p v).textAddress o = s.textAddress o := rfl

@[simp] theorem State.retire_reg (v : Word) (i : BitVec 4) : (s.retire v).reg i = s.reg i := rfl
@[simp] theorem State.writeByte_reg (p : Word) (v : Byte) (i : BitVec 4) : (s.writeByte p v).reg i = s.reg i := rfl
@[simp] theorem State.retire_readByte (v p : Word) : (s.retire v).readByte p = s.readByte p := rfl
@[simp] theorem State.setReg_readByte (i : BitVec 4) (v p : Word) : (s.setReg i v).readByte p = s.readByte p := rfl
@[simp] theorem State.writeReg8_readByte (k : Reg8) (v : Byte) (p : Word) :
    (s.writeReg8 k v).readByte p = s.readByte p := rfl

end Sys2Proof.Machine
end

