-- ==== Sys2Proof/Laws/Memory.lean ====
section
/-! SUPPORT. Memory: a read after a write, what a write leaves alone, and that the canonical form is kept. -/

namespace Sys2Proof.Machine

theorem Memory.read_write_same (m : Memory) (a : Nat) (v : Byte) : Memory.read (Memory.write m a v) a = some v := by
  induction m with
  | nil => simp [Memory.write, Memory.read]
  | cons c m ih =>
    obtain ⟨b, w⟩ := c
    by_cases h1 : a < b
    · simp [Memory.write, Memory.read, h1]
    · by_cases h2 : a = b
      · simp [Memory.write, Memory.read, h2]
      · simp [Memory.write, Memory.read, h1, h2, ih]

theorem Memory.read_write_other (m : Memory) {a b : Nat} (v : Byte) (h : b ≠ a) :
    Memory.read (Memory.write m a v) b = Memory.read m b := by
  induction m with
  | nil => simp [Memory.write, Memory.read, h]
  | cons c m ih =>
    obtain ⟨d, w⟩ := c
    by_cases h1 : a < d
    · simp [Memory.write, Memory.read, h1, h]
    · by_cases h2 : a = d
      · subst h2
        simp [Memory.write, Memory.read, h]
      · simp [Memory.write, Memory.read, h1, h2, ih]

theorem Memory.write_write_same (m : Memory) (a : Nat) (v w : Byte) :
    Memory.write (Memory.write m a v) a w = Memory.write m a w := by
  induction m with
  | nil => simp [Memory.write]
  | cons c m ih =>
    obtain ⟨d, x⟩ := c
    by_cases h1 : a < d
    · simp [Memory.write, h1]
    · by_cases h2 : a = d
      · simp [Memory.write, h2]
      · simp [Memory.write, h1, h2, ih]

theorem Memory.wfFrom_write (m : Memory) {lo a : Nat} (v : Byte) (hm : Memory.wfFrom lo m = true) (hlo : lo ≤ a)
    (ha : a < 2 ^ 64) : Memory.wfFrom lo (Memory.write m a v) = true := by
  induction m generalizing lo with
  | nil => simp [Memory.write, Memory.wfFrom, Memory.unlisted, hlo]; omega
  | cons c m ih =>
    obtain ⟨d, x⟩ := c
    simp only [Memory.wfFrom, Bool.and_eq_true, decide_eq_true_eq] at hm
    obtain ⟨⟨⟨h1, h2⟩, h3⟩, h4⟩ := hm
    by_cases hd : a < d
    · simp [Memory.write, hd, Memory.wfFrom, Memory.unlisted, hlo, h4]
      omega
    · by_cases he : a = d
      · subst he
        simp [Memory.write, Memory.wfFrom, Memory.unlisted, hlo, h4]
        omega
      · simp [Memory.write, hd, he, Memory.wfFrom, Memory.unlisted, h1, ih h4 (by omega)]
        omega

/-- The one operation that changes memory keeps its canonical form. -/
theorem State.writeByte_keeps_wf (s : State) (p : Word) (v : Byte) (h : Memory.wf s.mem = true) :
    Memory.wf (s.writeByte p v).mem = true :=
  Memory.wfFrom_write _ _ h (Nat.zero_le _) p.isLt

theorem State.reset_mem_wf : Memory.wf State.reset.mem = true := rfl

@[simp] theorem State.readByte_writeByte_same (s : State) (p : Word) (v : Byte) :
    (s.writeByte p v).readByte p = some v := Memory.read_write_same _ _ _

theorem State.readByte_writeByte_other (s : State) {p q : Word} (v : Byte) (h : q ≠ p) :
    (s.writeByte p v).readByte q = s.readByte q :=
  Memory.read_write_other _ _ fun e => h (BitVec.eq_of_toNat_eq e)

end Sys2Proof.Machine
end

