-- ==== Sys2Proof/Laws/Ops.lean ====
section
/-! SUPPORT. What each shared operation can do, said once. -/

namespace Sys2Proof.Machine

theorem State.reg_setReg_same (s : State) (i : BitVec 4) (v : Word) : (s.setReg i v).reg i = v := by
  simp [State.reg]

theorem State.reg_setReg_other (s : State) {i j : BitVec 4} (v : Word) (h : j ≠ i) :
    (s.setReg i v).reg j = s.reg j := by
  have hn : i.toNat ≠ j.toNat := fun e => h (BitVec.eq_of_toNat_eq e.symm)
  simp [State.reg, Vector.getElem_set_ne, hn]

theorem State.reg_writeReg8 (s : State) (k : Reg8) (v : Byte) (i : BitVec 4) :
    (s.writeReg8 k v).reg i = if i = k.number then k.insert v (s.reg i) else s.reg i := by
  by_cases h : i = k.number
  · subst h
    simp [State.writeReg8, State.reg_setReg_same]
  · simp [State.writeReg8, State.reg_setReg_other, h]

theorem destination_isReg {s : State} {rex : Option Rex} {f : Form} {k : Reg8}
    (h : destination s rex f = .reg k) : ∃ rm, f.rm = .reg rm ∧ k = byteRegister rex rm := by
  unfold destination at h
  split at h
  · next rm hr => exact ⟨rm, hr, by simpa using h.symm⟩
  · cases h

theorem destination_isMem {s : State} {rex : Option Rex} {f : Form} {n : SegName} {ea : Word}
    (h : destination s rex f = .mem n ea) :
    f.rm.isReg = false ∧ n = segmentOf rex f ∧ ea = effectiveAddressOf s rex f := by
  unfold destination at h
  split at h
  · cases h
  · next hr =>
    cases h
    refine ⟨?_, rfl, rfl⟩
    cases hm : f.rm <;> simp_all [RmOperand.isReg]

/-- What `resolve` answers: the segment or canonical exception, else a page fault, else the translated address. -/
theorem State.resolve_cases (s : State) (n : SegName) (ea : Word) :
    (∃ x, s.segmentFault n ea = some x ∧ s.resolve n ea = .error x) ∨
    (∃ code, s.segmentFault n ea = none ∧ s.translate (s.linear n ea) true = .pageFault code ∧
      s.resolve n ea = .error (.pf code (s.linear n ea))) ∨
    (∃ p, s.segmentFault n ea = none ∧ s.translate (s.linear n ea) true = .ok p ∧ s.resolve n ea = .ok p) := by
  unfold State.resolve
  cases h : s.segmentFault n ea with
  | some x => exact .inl ⟨x, rfl, rfl⟩
  | none =>
    cases ht : s.translate (s.linear n ea) true with
    | ok p => exact .inr (.inr ⟨p, rfl, rfl, rfl⟩)
    | pageFault c => exact .inr (.inl ⟨c, rfl, rfl, rfl⟩)

/-- What `complete` can do: write a byte register, raise, refuse the store, or store one byte. -/
theorem State.complete_cases (s : State) (d : Dest) (v : Byte) (pc' : Word) :
    (∃ k, d = .reg k ∧ s.complete d v pc' = .next ((s.writeReg8 k v).retire pc')) ∨
    (∃ n ea x, d = .mem n ea ∧ s.resolve n ea = .error x ∧ s.complete d v pc' = .fault x) ∨
    (∃ n ea p r, d = .mem n ea ∧ s.resolve n ea = .ok p ∧ s.storeRefusal p = some r ∧
      s.complete d v pc' = .refused r) ∨
    (∃ n ea p, d = .mem n ea ∧ s.resolve n ea = .ok p ∧ s.storeRefusal p = none ∧
      s.complete d v pc' = .next ((s.writeByte p v).retire pc')) := by
  cases d with
  | reg k => exact .inl ⟨k, rfl, rfl⟩
  | mem n ea =>
    cases h : s.resolve n ea with
    | error x => exact .inr (.inl ⟨n, ea, x, rfl, h, by simp [State.complete, h, raise]⟩)
    | ok p =>
      cases hr : s.storeRefusal p with
      | some r => exact .inr (.inr (.inl ⟨n, ea, p, r, rfl, h, hr, by simp [State.complete, h, hr]⟩))
      | none => exact .inr (.inr (.inr ⟨n, ea, p, rfl, h, hr, by simp [State.complete, h, hr]⟩))

/-- What `setByte` can do, in the order of 40_setcc.md R82. -/
theorem setByte_cases (b : Bool) (rex : Option Rex) (f : Form) (s : State) :
    (f.wf s.ctx rex = false ∧ setByte b rex f s = .refused .illFormed) ∨
    (f.wf s.ctx rex = true ∧ s.pcInRange (f.length rex) = false ∧ setByte b rex f s = .refused .pcWrap) ∨
    (s.issues rex f = true ∧ f.locked = true ∧ setByte b rex f s = .fault .ud) ∨
    (s.issues rex f = true ∧ f.locked = false ∧
      setByte b rex f s =
        s.complete (destination s rex f) (setValue b) (s.pc + BitVec.ofNat 64 (f.length rex))) := by
  cases hw : f.wf s.ctx rex with
  | false => exact .inl ⟨rfl, by simp [setByte, hw]⟩
  | true =>
    cases hp : s.pcInRange (f.length rex) with
    | false => exact .inr (.inl ⟨rfl, rfl, by simp [setByte, hw, State.nextPc, hp]⟩)
    | true =>
      cases hl : f.locked with
      | true =>
        exact .inr (.inr (.inl ⟨by simp [State.issues, hw, hp], rfl, by simp [setByte, hw, State.nextPc, hp, hl, raise]⟩))
      | false =>
        exact .inr (.inr (.inr ⟨by simp [State.issues, hw, hp], rfl, by simp [setByte, hw, State.nextPc, hp, hl]⟩))

/-- If `setByte` gives a next state, it wrote one byte register or one byte of memory, and advanced `pc`. -/
theorem setByte_next {b : Bool} {rex : Option Rex} {f : Form} {s t : State} (h : setByte b rex f s = .next t) :
    s.issues rex f = true ∧ f.locked = false ∧
    ((∃ k, destination s rex f = .reg k ∧
        t = (s.writeReg8 k (setValue b)).retire (s.pc + BitVec.ofNat 64 (f.length rex))) ∨
     (∃ n ea p, destination s rex f = .mem n ea ∧ s.resolve n ea = .ok p ∧ s.storeRefusal p = none ∧
        t = (s.writeByte p (setValue b)).retire (s.pc + BitVec.ofNat 64 (f.length rex)))) := by
  obtain ⟨_, e⟩ | ⟨_, _, e⟩ | ⟨_, _, e⟩ | ⟨hi, hl, e⟩ := setByte_cases b rex f s
  · rw [e] at h; cases h
  · rw [e] at h; cases h
  · rw [e] at h; cases h
  · refine ⟨hi, hl, ?_⟩
    rw [e] at h
    obtain ⟨k, hd, c⟩ | ⟨n, ea, x, hd, hr, c⟩ | ⟨n, ea, p, r, hd, hr, hs, c⟩ | ⟨n, ea, p, hd, hr, hs, c⟩ :=
      s.complete_cases (destination s rex f) (setValue b) (s.pc + BitVec.ofNat 64 (f.length rex))
    · rw [c] at h; cases h; exact .inl ⟨k, hd, rfl⟩
    · rw [c] at h; cases h
    · rw [c] at h; cases h
    · rw [c] at h; cases h; exact .inr ⟨n, ea, p, hd, hr, hs, rfl⟩

/-- Every meaning is the shared operation with the condition of its opcode. -/
theorem exec_eq_setByte (i : Instr) (s : State) : exec i s = setByte (s.test i.condition) i.rex i.form s := by
  cases i <;> rfl

/-- Where no flag is unfixed, the flags read as their bits of EFLAGS. -/
theorem State.flags_of_fixed {s : State} (h : s.unfixed = ⟨false, false, false, false, false⟩) :
    s.flags = flagsOf s.rflags := by
  simp [State.flags, h, Flags.read]

/-- What a completed `step` is: no debug feature is active, the fetched bytes decode, and `exec` gave the state. -/
theorem step_next {s t : State} (h : step s = .next t) :
    s.debugActive = false ∧ ∃ i rest, decode s.ctx s.fetchWindow = .ok (i, rest) ∧ exec i s = .next t := by
  unfold step State.nextInstr at h
  cases hd : s.debugActive with
  | true => simp [hd] at h
  | false =>
    cases he : decode s.ctx s.fetchWindow with
    | error e => simp [hd, he] at h
    | ok r => exact ⟨rfl, r.1, r.2, rfl, by simpa [hd, he] using h⟩

/-- Every byte of a fetch lies in the program text. -/
theorem State.fetchFrom_inText (s : State) (a : Word) (n j : Nat) (h : j < (s.fetchFrom a n).length) :
    s.inText (a + BitVec.ofNat 64 j) = true := by
  induction n generalizing a j with
  | zero => simp [State.fetchFrom] at h
  | succ n ih =>
    simp only [State.fetchFrom] at h
    split at h
    · next b hb =>
      cases j with
      | zero =>
        unfold State.fetchByte at hb
        split at hb
        · simpa using ‹s.inText a = true›
        · cases hb
      | succ j =>
        have e : a + 1 + BitVec.ofNat 64 j = a + BitVec.ofNat 64 (j + 1) := by
          apply BitVec.eq_of_toNat_eq
          simp
          omega
        exact e ▸ ih (a + 1) j (by simpa using h)
    · simp at h

/-! A run takes the outcome of its first step. -/

theorem run_next {s t : State} (n : Nat) (h : step s = .next t) : run (n + 1) s = run n t := by simp [run, h]

theorem run_fault {s : State} {x : Fault} (n : Nat) (h : step s = .fault x) : run (n + 1) s = .fault x s := by
  simp [run, h]

theorem run_done {s : State} (n : Nat) (h : step s = .refused .done) : run (n + 1) s = .done s := by
  simp [run, h, RunOutcome.ofRefusal]

theorem run_refused {s : State} {why : Refusal} (n : Nat) (h : step s = .refused why) (hw : why ≠ .done) :
    run (n + 1) s = .refused why s := by
  cases why <;> simp_all [run, RunOutcome.ofRefusal]

end Sys2Proof.Machine
end

