-- ==== Sys2Proof/Laws/PerInstr.lean ====
section
/-! SUPPORT. Statements made per instruction, one lemma per constructor of `Instr`. -/

namespace Sys2Proof.Laws

/-- The instruction a decoder gives for the bytes of `i` has the condition, the REX prefix and the operand of `i`
(30_encoding.md R53). -/
def SynonymKeepsParts.Statement (i : Instr) : Prop :=
  i.primary.condition = i.condition ∧ i.primary.rex = i.rex ∧ i.primary.form = i.form

theorem SynonymKeepsParts.seta (f : Form) : SynonymKeepsParts.Statement (.seta f) := ⟨rfl, rfl, rfl⟩
theorem SynonymKeepsParts.setaRex (rex : Rex) (f : Form) : SynonymKeepsParts.Statement (.setaRex rex f) := ⟨rfl, rfl, rfl⟩
theorem SynonymKeepsParts.setae (f : Form) : SynonymKeepsParts.Statement (.setae f) := ⟨rfl, rfl, rfl⟩
theorem SynonymKeepsParts.setaeRex (rex : Rex) (f : Form) : SynonymKeepsParts.Statement (.setaeRex rex f) := ⟨rfl, rfl, rfl⟩
theorem SynonymKeepsParts.setb (f : Form) : SynonymKeepsParts.Statement (.setb f) := ⟨rfl, rfl, rfl⟩
theorem SynonymKeepsParts.setbRex (rex : Rex) (f : Form) : SynonymKeepsParts.Statement (.setbRex rex f) := ⟨rfl, rfl, rfl⟩
theorem SynonymKeepsParts.setbe (f : Form) : SynonymKeepsParts.Statement (.setbe f) := ⟨rfl, rfl, rfl⟩
theorem SynonymKeepsParts.setbeRex (rex : Rex) (f : Form) : SynonymKeepsParts.Statement (.setbeRex rex f) := ⟨rfl, rfl, rfl⟩
theorem SynonymKeepsParts.setc (f : Form) : SynonymKeepsParts.Statement (.setc f) := ⟨rfl, rfl, rfl⟩
theorem SynonymKeepsParts.setcRex (rex : Rex) (f : Form) : SynonymKeepsParts.Statement (.setcRex rex f) := ⟨rfl, rfl, rfl⟩
theorem SynonymKeepsParts.sete (f : Form) : SynonymKeepsParts.Statement (.sete f) := ⟨rfl, rfl, rfl⟩
theorem SynonymKeepsParts.seteRex (rex : Rex) (f : Form) : SynonymKeepsParts.Statement (.seteRex rex f) := ⟨rfl, rfl, rfl⟩
theorem SynonymKeepsParts.setg (f : Form) : SynonymKeepsParts.Statement (.setg f) := ⟨rfl, rfl, rfl⟩
theorem SynonymKeepsParts.setgRex (rex : Rex) (f : Form) : SynonymKeepsParts.Statement (.setgRex rex f) := ⟨rfl, rfl, rfl⟩
theorem SynonymKeepsParts.setge (f : Form) : SynonymKeepsParts.Statement (.setge f) := ⟨rfl, rfl, rfl⟩
theorem SynonymKeepsParts.setgeRex (rex : Rex) (f : Form) : SynonymKeepsParts.Statement (.setgeRex rex f) := ⟨rfl, rfl, rfl⟩
theorem SynonymKeepsParts.setl (f : Form) : SynonymKeepsParts.Statement (.setl f) := ⟨rfl, rfl, rfl⟩
theorem SynonymKeepsParts.setlRex (rex : Rex) (f : Form) : SynonymKeepsParts.Statement (.setlRex rex f) := ⟨rfl, rfl, rfl⟩
theorem SynonymKeepsParts.setle (f : Form) : SynonymKeepsParts.Statement (.setle f) := ⟨rfl, rfl, rfl⟩
theorem SynonymKeepsParts.setleRex (rex : Rex) (f : Form) : SynonymKeepsParts.Statement (.setleRex rex f) := ⟨rfl, rfl, rfl⟩
theorem SynonymKeepsParts.setna (f : Form) : SynonymKeepsParts.Statement (.setna f) := ⟨rfl, rfl, rfl⟩
theorem SynonymKeepsParts.setnaRex (rex : Rex) (f : Form) : SynonymKeepsParts.Statement (.setnaRex rex f) := ⟨rfl, rfl, rfl⟩
theorem SynonymKeepsParts.setnae (f : Form) : SynonymKeepsParts.Statement (.setnae f) := ⟨rfl, rfl, rfl⟩
theorem SynonymKeepsParts.setnaeRex (rex : Rex) (f : Form) : SynonymKeepsParts.Statement (.setnaeRex rex f) := ⟨rfl, rfl, rfl⟩
theorem SynonymKeepsParts.setnb (f : Form) : SynonymKeepsParts.Statement (.setnb f) := ⟨rfl, rfl, rfl⟩
theorem SynonymKeepsParts.setnbRex (rex : Rex) (f : Form) : SynonymKeepsParts.Statement (.setnbRex rex f) := ⟨rfl, rfl, rfl⟩
theorem SynonymKeepsParts.setnbe (f : Form) : SynonymKeepsParts.Statement (.setnbe f) := ⟨rfl, rfl, rfl⟩
theorem SynonymKeepsParts.setnbeRex (rex : Rex) (f : Form) : SynonymKeepsParts.Statement (.setnbeRex rex f) := ⟨rfl, rfl, rfl⟩
theorem SynonymKeepsParts.setnc (f : Form) : SynonymKeepsParts.Statement (.setnc f) := ⟨rfl, rfl, rfl⟩
theorem SynonymKeepsParts.setncRex (rex : Rex) (f : Form) : SynonymKeepsParts.Statement (.setncRex rex f) := ⟨rfl, rfl, rfl⟩
theorem SynonymKeepsParts.setne (f : Form) : SynonymKeepsParts.Statement (.setne f) := ⟨rfl, rfl, rfl⟩
theorem SynonymKeepsParts.setneRex (rex : Rex) (f : Form) : SynonymKeepsParts.Statement (.setneRex rex f) := ⟨rfl, rfl, rfl⟩
theorem SynonymKeepsParts.setng (f : Form) : SynonymKeepsParts.Statement (.setng f) := ⟨rfl, rfl, rfl⟩
theorem SynonymKeepsParts.setngRex (rex : Rex) (f : Form) : SynonymKeepsParts.Statement (.setngRex rex f) := ⟨rfl, rfl, rfl⟩
theorem SynonymKeepsParts.setnge (f : Form) : SynonymKeepsParts.Statement (.setnge f) := ⟨rfl, rfl, rfl⟩
theorem SynonymKeepsParts.setngeRex (rex : Rex) (f : Form) : SynonymKeepsParts.Statement (.setngeRex rex f) := ⟨rfl, rfl, rfl⟩
theorem SynonymKeepsParts.setnl (f : Form) : SynonymKeepsParts.Statement (.setnl f) := ⟨rfl, rfl, rfl⟩
theorem SynonymKeepsParts.setnlRex (rex : Rex) (f : Form) : SynonymKeepsParts.Statement (.setnlRex rex f) := ⟨rfl, rfl, rfl⟩
theorem SynonymKeepsParts.setnle (f : Form) : SynonymKeepsParts.Statement (.setnle f) := ⟨rfl, rfl, rfl⟩
theorem SynonymKeepsParts.setnleRex (rex : Rex) (f : Form) : SynonymKeepsParts.Statement (.setnleRex rex f) := ⟨rfl, rfl, rfl⟩
theorem SynonymKeepsParts.setno (f : Form) : SynonymKeepsParts.Statement (.setno f) := ⟨rfl, rfl, rfl⟩
theorem SynonymKeepsParts.setnoRex (rex : Rex) (f : Form) : SynonymKeepsParts.Statement (.setnoRex rex f) := ⟨rfl, rfl, rfl⟩
theorem SynonymKeepsParts.setnp (f : Form) : SynonymKeepsParts.Statement (.setnp f) := ⟨rfl, rfl, rfl⟩
theorem SynonymKeepsParts.setnpRex (rex : Rex) (f : Form) : SynonymKeepsParts.Statement (.setnpRex rex f) := ⟨rfl, rfl, rfl⟩
theorem SynonymKeepsParts.setns (f : Form) : SynonymKeepsParts.Statement (.setns f) := ⟨rfl, rfl, rfl⟩
theorem SynonymKeepsParts.setnsRex (rex : Rex) (f : Form) : SynonymKeepsParts.Statement (.setnsRex rex f) := ⟨rfl, rfl, rfl⟩
theorem SynonymKeepsParts.setnz (f : Form) : SynonymKeepsParts.Statement (.setnz f) := ⟨rfl, rfl, rfl⟩
theorem SynonymKeepsParts.setnzRex (rex : Rex) (f : Form) : SynonymKeepsParts.Statement (.setnzRex rex f) := ⟨rfl, rfl, rfl⟩
theorem SynonymKeepsParts.seto (f : Form) : SynonymKeepsParts.Statement (.seto f) := ⟨rfl, rfl, rfl⟩
theorem SynonymKeepsParts.setoRex (rex : Rex) (f : Form) : SynonymKeepsParts.Statement (.setoRex rex f) := ⟨rfl, rfl, rfl⟩
theorem SynonymKeepsParts.setp (f : Form) : SynonymKeepsParts.Statement (.setp f) := ⟨rfl, rfl, rfl⟩
theorem SynonymKeepsParts.setpRex (rex : Rex) (f : Form) : SynonymKeepsParts.Statement (.setpRex rex f) := ⟨rfl, rfl, rfl⟩
theorem SynonymKeepsParts.setpe (f : Form) : SynonymKeepsParts.Statement (.setpe f) := ⟨rfl, rfl, rfl⟩
theorem SynonymKeepsParts.setpeRex (rex : Rex) (f : Form) : SynonymKeepsParts.Statement (.setpeRex rex f) := ⟨rfl, rfl, rfl⟩
theorem SynonymKeepsParts.setpo (f : Form) : SynonymKeepsParts.Statement (.setpo f) := ⟨rfl, rfl, rfl⟩
theorem SynonymKeepsParts.setpoRex (rex : Rex) (f : Form) : SynonymKeepsParts.Statement (.setpoRex rex f) := ⟨rfl, rfl, rfl⟩
theorem SynonymKeepsParts.sets (f : Form) : SynonymKeepsParts.Statement (.sets f) := ⟨rfl, rfl, rfl⟩
theorem SynonymKeepsParts.setsRex (rex : Rex) (f : Form) : SynonymKeepsParts.Statement (.setsRex rex f) := ⟨rfl, rfl, rfl⟩
theorem SynonymKeepsParts.setz (f : Form) : SynonymKeepsParts.Statement (.setz f) := ⟨rfl, rfl, rfl⟩
theorem SynonymKeepsParts.setzRex (rex : Rex) (f : Form) : SynonymKeepsParts.Statement (.setzRex rex f) := ⟨rfl, rfl, rfl⟩

end Sys2Proof.Laws
end

