-- ==== Sys2Proof/Certificates/Slice0/Obligations.lean ====
section
/-! DEFINITION. The statements for the provers, each citing the rules of spec/ it formalises. -/

open Sys2Proof Sys2Proof.Machine

/-- For every setting of the flags, cond(n) has the value of the table for n = 0 to 15; cond(n+1) is the negation of
cond(n) for even n; and two EFLAGS values with the same CF, PF, ZF, SF and OF (bits 0, 2, 6, 7, 11) give every
condition the same value. (R80) -/
def Obligations.ConditionsFollowTheFiveFlags : Prop :=
  (∀ f : Flags,
      f.holds (conditionOf 0) = f.of ∧
      f.holds (conditionOf 1) = !f.of ∧
      f.holds (conditionOf 2) = f.cf ∧
      f.holds (conditionOf 3) = !f.cf ∧
      f.holds (conditionOf 4) = f.zf ∧
      f.holds (conditionOf 5) = !f.zf ∧
      f.holds (conditionOf 6) = (f.cf || f.zf) ∧
      f.holds (conditionOf 7) = (!f.cf && !f.zf) ∧
      f.holds (conditionOf 8) = f.sf ∧
      f.holds (conditionOf 9) = !f.sf ∧
      f.holds (conditionOf 10) = f.pf ∧
      f.holds (conditionOf 11) = !f.pf ∧
      f.holds (conditionOf 12) = (f.sf != f.of) ∧
      f.holds (conditionOf 13) = (f.sf == f.of) ∧
      f.holds (conditionOf 14) = (f.zf || f.sf != f.of) ∧
      f.holds (conditionOf 15) = (!f.zf && f.sf == f.of)) ∧
    (∀ (f : Flags) (n : BitVec 4), n.getLsbD 0 = false → f.holds (conditionOf (n + 1)) = !f.holds (conditionOf n)) ∧
    (∀ (r r' : Word) (n : BitVec 4), r.getLsbD 0 = r'.getLsbD 0 → r.getLsbD 2 = r'.getLsbD 2 →
      r.getLsbD 6 = r'.getLsbD 6 → r.getLsbD 7 = r'.getLsbD 7 → r.getLsbD 11 = r'.getLsbD 11 →
      (flagsOf r).holds (conditionOf n) = (flagsOf r').holds (conditionOf n))

/-- The byte written for condition n xor 1, minus 1, is FFH where cond(n) holds and 00H where it does not. (R87, R84) -/
def Obligations.DecrementedOppositeIsAllOnes : Prop :=
  ∀ (f : Flags) (n : BitVec 4),
    setValue (f.holds (conditionOf (n ^^^ 1))) - 1 = if f.holds (conditionOf n) then 0xFF else 0x00

/-- In every state: writing v to the low byte of register i makes bits 7:0 equal to v and keeps bits 63:8; writing v to
AH, CH, DH or BH makes bits 15:8 of register 0 to 3 equal to v and keeps bits 63:16 and 7:0; every other register
keeps its value, and so does the rest of the state. (R13) -/
def Obligations.ByteRegisterWriteKeepsOtherBits : Prop :=
  (∀ (s : State) (i : BitVec 4) (v : Byte),
      ((s.writeReg8 (.low i) v).reg i).extractLsb' 0 8 = v ∧
      ((s.writeReg8 (.low i) v).reg i).extractLsb' 8 56 = (s.reg i).extractLsb' 8 56 ∧
      (∀ j : BitVec 4, j ≠ i → (s.writeReg8 (.low i) v).reg j = s.reg j) ∧
      { s.writeReg8 (.low i) v with regs := s.regs } = s) ∧
    (∀ (s : State) (i : BitVec 2) (v : Byte),
      ((s.writeReg8 (.high i) v).reg (0#2 ++ i)).extractLsb' 8 8 = v ∧
      ((s.writeReg8 (.high i) v).reg (0#2 ++ i)).extractLsb' 16 48 = (s.reg (0#2 ++ i)).extractLsb' 16 48 ∧
      ((s.writeReg8 (.high i) v).reg (0#2 ++ i)).extractLsb' 0 8 = (s.reg (0#2 ++ i)).extractLsb' 0 8 ∧
      (∀ j : BitVec 4, j ≠ 0#2 ++ i → (s.writeReg8 (.high i) v).reg j = s.reg j) ∧
      { s.writeReg8 (.high i) v with regs := s.regs } = s)

/-- Without REX, rm = 0 to 7 names AL, CL, DL, BL, AH, CH, DH, BH in every state; with any REX prefix it names bits 7:0
of general register 8*REX.B + rm. (R56, R57) -/
def Obligations.RegisterFormNamesByteRegister : Prop :=
  (∀ (s : State) (ps : List LegacyPrefix) (reg : BitVec 3),
      [0#3, 1#3, 2#3, 3#3, 4#3, 5#3, 6#3, 7#3].map (fun rm => destination s none ⟨ps, reg, .reg rm⟩) =
        [.reg (.low 0), .reg (.low 1), .reg (.low 2), .reg (.low 3),
          .reg (.high 0), .reg (.high 1), .reg (.high 2), .reg (.high 3)]) ∧
    (∀ (s : State) (r : Rex) (ps : List LegacyPrefix) (reg rm : BitVec 3),
      ∃ i : BitVec 4, destination s (some r) ⟨ps, reg, .reg rm⟩ = .reg (.low i) ∧ i.toNat = 8 * r.b.toNat + rm.toNat)

/-- The address size is 64 bits in 64-bit mode, 32 with 67H; 32 in protected and compatibility mode with csD = 32, 16
with 67H; 16 with csD = 16, 32 with 67H; 16 in real-address and virtual-8086 mode, 32 with 67H. (R65) -/
def Obligations.AddressSizeByModeAndPrefix : Prop :=
  ∀ d : CodeSize,
    addrSize ⟨.long64, d⟩ false = .a64 ∧ addrSize ⟨.long64, d⟩ true = .a32 ∧
    addrSize ⟨.compat, .size32⟩ false = .a32 ∧ addrSize ⟨.compat, .size32⟩ true = .a16 ∧
    addrSize ⟨.prot, .size32⟩ false = .a32 ∧ addrSize ⟨.prot, .size32⟩ true = .a16 ∧
    addrSize ⟨.compat, .size16⟩ false = .a16 ∧ addrSize ⟨.compat, .size16⟩ true = .a32 ∧
    addrSize ⟨.prot, .size16⟩ false = .a16 ∧ addrSize ⟨.prot, .size16⟩ true = .a32 ∧
    addrSize ⟨.real, d⟩ false = .a16 ∧ addrSize ⟨.real, d⟩ true = .a32 ∧
    addrSize ⟨.v86, d⟩ false = .a16 ∧ addrSize ⟨.v86, d⟩ true = .a32

/-- rm = 0 to 7 selects BX+SI, BX+DI, BP+SI, BP+DI, SI, DI, BP, BX, plus no displacement, a sign-extended disp8 or a
disp16, modulo 2^16 and zero-extended; mod = 0, rm = 6 is disp16 alone; the default segment is SS for the forms with
BP and DS for the others. (R63) -/
def Obligations.EffectiveAddressOf16BitForms : Prop :=
  ([0#3, 1#3, 2#3, 3#3, 4#3, 5#3, 6#3, 7#3].map base16Of = [.bxSi, .bxDi, .bpSi, .bpDi, .si, .di, .bp, .bx]) ∧
    (∀ (s : State) (rex : Option Rex) (len : Nat) (d : Disp16) (v : BitVec 16),
      (match d with
        | .none => v = 0
        | .disp8 d8 => v = d8.signExtend 16
        | .disp16 d16 => v = d16) →
      [Base16.bxSi, .bxDi, .bpSi, .bpDi, .si, .di, .bp, .bx].map (fun b => effectiveAddress s .a16 rex len (.based16 b d)) =
        [(s.reg 3).setWidth 16 + (s.reg 6).setWidth 16 + v, (s.reg 3).setWidth 16 + (s.reg 7).setWidth 16 + v,
          (s.reg 5).setWidth 16 + (s.reg 6).setWidth 16 + v, (s.reg 5).setWidth 16 + (s.reg 7).setWidth 16 + v,
          (s.reg 6).setWidth 16 + v, (s.reg 7).setWidth 16 + v, (s.reg 5).setWidth 16 + v,
          (s.reg 3).setWidth 16 + v].map (BitVec.setWidth 64)) ∧
    (∀ (s : State) (rex : Option Rex) (len : Nat) (d : BitVec 16),
      effectiveAddress s .a16 rex len (.abs16 d) = d.setWidth 64) ∧
    (∀ (rex : Option Rex) (d : Disp16) (d' : BitVec 16),
      [Base16.bxSi, .bxDi, .bpSi, .bpDi, .si, .di, .bp, .bx].map (fun b => defaultSegment rex (.based16 b d)) =
        [.ds, .ds, .ss, .ss, .ds, .ds, .ss, .ds] ∧
      defaultSegment rex (.abs16 d') = .ds)

/-- With A = 64 the address is the base register numbered REX.B ++ rm plus the displacement sign-extended to 64 bits;
with A = 32 the low 32 bits of the register plus the displacement at 32 bits, modulo 2^32 and zero-extended; outside
64-bit mode mod = 0, rm = 5 is disp32 alone. (R60, R64) -/
def Obligations.EffectiveAddressOfBaseForms : Prop :=
  (∀ (s : State) (rex : Option Rex) (len : Nat) (rm : BitVec 3) (d : Disp32) (v : Word) (w : BitVec 32),
      (match d with
        | .none => v = 0 ∧ w = 0
        | .disp8 d8 => v = d8.signExtend 64 ∧ w = d8.signExtend 32
        | .disp32 d32 => v = d32.signExtend 64 ∧ w = d32) →
      effectiveAddress s .a64 rex len (.based rm d) = s.reg (BitVec.ofBool (rexB rex) ++ rm) + v ∧
      effectiveAddress s .a32 rex len (.based rm d) =
        ((s.reg (BitVec.ofBool (rexB rex) ++ rm)).setWidth 32 + w).setWidth 64) ∧
    (∀ (s : State) (rex : Option Rex) (len : Nat) (d : BitVec 32), s.mode ≠ .long64 →
      effectiveAddress s .a32 rex len (.direct d) = d.setWidth 64)

/-- The address is baseval + indexval * 2^scale plus the displacement, modulo 2^A: the index register is REX.X ++ index,
none when that is 4; the base register is REX.B ++ base, none but a disp32 for base = 5 with mod = 0. (R61) -/
def Obligations.EffectiveAddressOfSibForms : Prop :=
  (∀ (s : State) (rex : Option Rex) (len : Nat) (scale : BitVec 2) (index base : BitVec 3) (d : Disp32) (v iv : Word)
      (w : BitVec 32),
      (match d with
        | .none => v = 0 ∧ w = 0
        | .disp8 d8 => v = d8.signExtend 64 ∧ w = d8.signExtend 32
        | .disp32 d32 => v = d32.signExtend 64 ∧ w = d32) →
      iv = (if BitVec.ofBool (rexX rex) ++ index = 4#4 then 0 else s.reg (BitVec.ofBool (rexX rex) ++ index)) →
      effectiveAddress s .a64 rex len (.sib scale index base d) =
        s.reg (BitVec.ofBool (rexB rex) ++ base) + iv * BitVec.ofNat 64 (2 ^ scale.toNat) + v ∧
      effectiveAddress s .a32 rex len (.sib scale index base d) =
        ((s.reg (BitVec.ofBool (rexB rex) ++ base)).setWidth 32 + iv.setWidth 32 * BitVec.ofNat 32 (2 ^ scale.toNat)
          + w).setWidth 64) ∧
    (∀ (s : State) (rex : Option Rex) (len : Nat) (scale : BitVec 2) (index : BitVec 3) (d : BitVec 32) (iv : Word),
      iv = (if BitVec.ofBool (rexX rex) ++ index = 4#4 then 0 else s.reg (BitVec.ofBool (rexX rex) ++ index)) →
      effectiveAddress s .a64 rex len (.sibNoBase scale index d) =
        d.signExtend 64 + iv * BitVec.ofNat 64 (2 ^ scale.toNat) ∧
      effectiveAddress s .a32 rex len (.sibNoBase scale index d) =
        (d + iv.setWidth 32 * BitVec.ofNat 32 (2 ^ scale.toNat)).setWidth 64)

/-- In 64-bit mode mod = 0, rm = 5 gives pc + len plus the sign-extended disp32, modulo 2^64; with the 67H prefix the
sum is truncated to 32 bits and zero-extended; the segment is DS unless overridden. (R62) -/
def Obligations.EffectiveAddressRelativeToNextInstruction : Prop :=
  ∀ (s : State) (rex : Option Rex) (f : Form) (d : BitVec 32), s.mode = .long64 → f.rm = .direct d →
    (f.hasAddressSize = false →
      effectiveAddressOf s rex f = s.pc + BitVec.ofNat 64 (f.length rex) + d.signExtend 64) ∧
    (f.hasAddressSize = true →
      (effectiveAddressOf s rex f).toNat =
        (s.pc + BitVec.ofNat 64 (f.length rex) + d.signExtend 64).toNat % 2 ^ 32) ∧
    (f.override = none → segmentOf rex f = .ds)

/-- A segment override names the segment; without one it is SS when the base register number (REX.B ++ rm or REX.B ++
base) is 4 or 5, and DS for every other base, for a form without a base and for the disp32 and RIP-relative form,
whatever the index. (R66) -/
def Obligations.SegmentOfMemoryForm : Prop :=
  ∀ (rex : Option Rex) (f : Form),
    (∀ n, f.override = some n → segmentOf rex f = n) ∧
    (f.override = none →
      (∀ rm d, f.rm = .based rm d →
        segmentOf rex f =
          if (BitVec.ofBool (rexB rex) ++ rm).toNat = 4 ∨ (BitVec.ofBool (rexB rex) ++ rm).toNat = 5 then .ss else .ds) ∧
      (∀ scale index base d, f.rm = .sib scale index base d →
        segmentOf rex f =
          if (BitVec.ofBool (rexB rex) ++ base).toNat = 4 ∨ (BitVec.ofBool (rexB rex) ++ base).toNat = 5 then .ss
          else .ds) ∧
      (∀ scale index d, f.rm = .sibNoBase scale index d → segmentOf rex f = .ds) ∧
      (∀ d, f.rm = .direct d → segmentOf rex f = .ds))

/-- Real-address and virtual-8086 mode: (base + ea) mod 2^32, further modulo 2^20 when A20Masked; protected and
compatibility mode: (base + ea) mod 2^32; 64-bit mode: ea for CS, DS, ES, SS, and (base + ea) mod 2^64 for FS and
GS. (R38) -/
def Obligations.LinearAddressByMode : Prop :=
  ∀ (s : State) (n : SegName) (ea : Word),
    (s.mode = .real ∨ s.mode = .v86 →
      (s.linear n ea).toNat =
        if s.cfg.a20Masked then ((s.seg n).base.toNat + ea.toNat) % 2 ^ 32 % 2 ^ 20
        else ((s.seg n).base.toNat + ea.toNat) % 2 ^ 32) ∧
    (s.mode = .prot ∨ s.mode = .compat → (s.linear n ea).toNat = ((s.seg n).base.toNat + ea.toNat) % 2 ^ 32) ∧
    (s.mode = .long64 → n ≠ .fs → n ≠ .gs → s.linear n ea = ea) ∧
    (s.mode = .long64 → n = .fs ∨ n = .gs → (s.linear n ea).toNat = ((s.seg n).base.toNat + ea.toNat) % 2 ^ 64)

/-- An address is canonical exactly when bits 63 down to VA_BITS - 1 are all equal, for VA_BITS = 48 and 57; with 48 the
canonical addresses are 0 to 00007FFFFFFFFFFFH and FFFF800000000000H to FFFFFFFFFFFFFFFFH; in 64-bit mode the check
before the write finds nothing exactly when the linear address (after an FS or GS base is added) is canonical. (R39) -/
def Obligations.CanonicalAddresses : Prop :=
  (∀ a : Word,
    (canonical .va48 a = true ↔ ∀ i, 47 ≤ i → i < 64 → a.getLsbD i = a.getLsbD 47) ∧
    (canonical .va57 a = true ↔ ∀ i, 56 ≤ i → i < 64 → a.getLsbD i = a.getLsbD 56) ∧
    (canonical .va48 a = true ↔ a.toNat ≤ 0x00007FFFFFFFFFFF ∨ 0xFFFF800000000000 ≤ a.toNat)) ∧
    (∀ (s : State) (n : SegName) (ea : Word), s.mode = .long64 →
      (s.segmentFault n ea = none ↔ canonical s.cfg.vaBits (s.linear n ea) = true))

/-- For an expand-up segment an offset is outside exactly when it is above the limit; for an expand-down segment exactly
when it is at most the limit or above FFFFFFFFH (B flag 1) or FFFFH (B flag 0). That the expand-down check is made,
and which bound goes with which B flag, is DEDUCED (assumption log 22). (R41) -/
def Obligations.OffsetOutsideSegmentLimit : Prop :=
  ∀ (r : SegReg) (ea : Word),
    (r.expandDown = false → (r.outsideLimit ea = true ↔ r.limit.toNat < ea.toNat)) ∧
    (r.expandDown = true →
      (r.outsideLimit ea = true ↔ ea.toNat ≤ r.limit.toNat ∨ (if r.big then 0xFFFFFFFF else 0xFFFF) < ea.toNat))

/-- For every instruction, encode writes len bytes; a well-formed one has at least 3 and at most 12 bytes (11 without
LOCK), so it never exceeds MAX_INSN_LEN. The bound 12 is DEDUCED (assumption log 28). (R69, R50) -/
def Obligations.EncodedLengthIsBounded : Prop :=
  ∀ i : Instr, i.encode.length = i.length ∧ 3 ≤ i.length ∧
    ∀ c : Ctx, i.wf c = true → i.length ≤ 12 ∧ (i.form.locked = false → i.length ≤ 11)

/-- LOCK is the byte F0H, the overrides ES, CS, SS, DS, FS, GS are 26H, 2EH, 36H, 3EH, 64H, 65H, the address-size prefix
is 67H, and the REX byte is 40H + 8W + 4R + 2X + B. For every mnemonic and every operand, the bytes are the legacy
prefixes, the REX byte on the REX row, 0F, the second opcode byte of the opcode map, and the operand (whose bytes
are in OperandBytesOfEveryForm). (R52, R58, R65, R66, R67) -/
def Obligations.OpcodeBytesOfEveryMnemonic : Prop :=
  LegacyPrefix.lock.byte = 0xF0 ∧ (LegacyPrefix.segment .es).byte = 0x26 ∧ (LegacyPrefix.segment .cs).byte = 0x2E ∧
  (LegacyPrefix.segment .ss).byte = 0x36 ∧ (LegacyPrefix.segment .ds).byte = 0x3E ∧
  (LegacyPrefix.segment .fs).byte = 0x64 ∧ (LegacyPrefix.segment .gs).byte = 0x65 ∧
  LegacyPrefix.addressSize.byte = 0x67 ∧
  (∀ r : Rex, r.byte.toNat = 0x40 + 8 * r.w.toNat + 4 * r.r.toNat + 2 * r.x.toNat + r.b.toNat) ∧
  ∀ (f : Form) (r : Rex),
    (Instr.seta f).encode = f.prefixes.map LegacyPrefix.byte ++ 0x0F#8 :: 0x97#8 :: f.rm.encode f.reg ∧
    (Instr.setaRex r f).encode = f.prefixes.map LegacyPrefix.byte ++ r.byte :: 0x0F#8 :: 0x97#8 :: f.rm.encode f.reg ∧
    (Instr.setae f).encode = f.prefixes.map LegacyPrefix.byte ++ 0x0F#8 :: 0x93#8 :: f.rm.encode f.reg ∧
    (Instr.setaeRex r f).encode = f.prefixes.map LegacyPrefix.byte ++ r.byte :: 0x0F#8 :: 0x93#8 :: f.rm.encode f.reg ∧
    (Instr.setb f).encode = f.prefixes.map LegacyPrefix.byte ++ 0x0F#8 :: 0x92#8 :: f.rm.encode f.reg ∧
    (Instr.setbRex r f).encode = f.prefixes.map LegacyPrefix.byte ++ r.byte :: 0x0F#8 :: 0x92#8 :: f.rm.encode f.reg ∧
    (Instr.setbe f).encode = f.prefixes.map LegacyPrefix.byte ++ 0x0F#8 :: 0x96#8 :: f.rm.encode f.reg ∧
    (Instr.setbeRex r f).encode = f.prefixes.map LegacyPrefix.byte ++ r.byte :: 0x0F#8 :: 0x96#8 :: f.rm.encode f.reg ∧
    (Instr.setc f).encode = f.prefixes.map LegacyPrefix.byte ++ 0x0F#8 :: 0x92#8 :: f.rm.encode f.reg ∧
    (Instr.setcRex r f).encode = f.prefixes.map LegacyPrefix.byte ++ r.byte :: 0x0F#8 :: 0x92#8 :: f.rm.encode f.reg ∧
    (Instr.sete f).encode = f.prefixes.map LegacyPrefix.byte ++ 0x0F#8 :: 0x94#8 :: f.rm.encode f.reg ∧
    (Instr.seteRex r f).encode = f.prefixes.map LegacyPrefix.byte ++ r.byte :: 0x0F#8 :: 0x94#8 :: f.rm.encode f.reg ∧
    (Instr.setg f).encode = f.prefixes.map LegacyPrefix.byte ++ 0x0F#8 :: 0x9F#8 :: f.rm.encode f.reg ∧
    (Instr.setgRex r f).encode = f.prefixes.map LegacyPrefix.byte ++ r.byte :: 0x0F#8 :: 0x9F#8 :: f.rm.encode f.reg ∧
    (Instr.setge f).encode = f.prefixes.map LegacyPrefix.byte ++ 0x0F#8 :: 0x9D#8 :: f.rm.encode f.reg ∧
    (Instr.setgeRex r f).encode = f.prefixes.map LegacyPrefix.byte ++ r.byte :: 0x0F#8 :: 0x9D#8 :: f.rm.encode f.reg ∧
    (Instr.setl f).encode = f.prefixes.map LegacyPrefix.byte ++ 0x0F#8 :: 0x9C#8 :: f.rm.encode f.reg ∧
    (Instr.setlRex r f).encode = f.prefixes.map LegacyPrefix.byte ++ r.byte :: 0x0F#8 :: 0x9C#8 :: f.rm.encode f.reg ∧
    (Instr.setle f).encode = f.prefixes.map LegacyPrefix.byte ++ 0x0F#8 :: 0x9E#8 :: f.rm.encode f.reg ∧
    (Instr.setleRex r f).encode = f.prefixes.map LegacyPrefix.byte ++ r.byte :: 0x0F#8 :: 0x9E#8 :: f.rm.encode f.reg ∧
    (Instr.setna f).encode = f.prefixes.map LegacyPrefix.byte ++ 0x0F#8 :: 0x96#8 :: f.rm.encode f.reg ∧
    (Instr.setnaRex r f).encode = f.prefixes.map LegacyPrefix.byte ++ r.byte :: 0x0F#8 :: 0x96#8 :: f.rm.encode f.reg ∧
    (Instr.setnae f).encode = f.prefixes.map LegacyPrefix.byte ++ 0x0F#8 :: 0x92#8 :: f.rm.encode f.reg ∧
    (Instr.setnaeRex r f).encode = f.prefixes.map LegacyPrefix.byte ++ r.byte :: 0x0F#8 :: 0x92#8 :: f.rm.encode f.reg ∧
    (Instr.setnb f).encode = f.prefixes.map LegacyPrefix.byte ++ 0x0F#8 :: 0x93#8 :: f.rm.encode f.reg ∧
    (Instr.setnbRex r f).encode = f.prefixes.map LegacyPrefix.byte ++ r.byte :: 0x0F#8 :: 0x93#8 :: f.rm.encode f.reg ∧
    (Instr.setnbe f).encode = f.prefixes.map LegacyPrefix.byte ++ 0x0F#8 :: 0x97#8 :: f.rm.encode f.reg ∧
    (Instr.setnbeRex r f).encode = f.prefixes.map LegacyPrefix.byte ++ r.byte :: 0x0F#8 :: 0x97#8 :: f.rm.encode f.reg ∧
    (Instr.setnc f).encode = f.prefixes.map LegacyPrefix.byte ++ 0x0F#8 :: 0x93#8 :: f.rm.encode f.reg ∧
    (Instr.setncRex r f).encode = f.prefixes.map LegacyPrefix.byte ++ r.byte :: 0x0F#8 :: 0x93#8 :: f.rm.encode f.reg ∧
    (Instr.setne f).encode = f.prefixes.map LegacyPrefix.byte ++ 0x0F#8 :: 0x95#8 :: f.rm.encode f.reg ∧
    (Instr.setneRex r f).encode = f.prefixes.map LegacyPrefix.byte ++ r.byte :: 0x0F#8 :: 0x95#8 :: f.rm.encode f.reg ∧
    (Instr.setng f).encode = f.prefixes.map LegacyPrefix.byte ++ 0x0F#8 :: 0x9E#8 :: f.rm.encode f.reg ∧
    (Instr.setngRex r f).encode = f.prefixes.map LegacyPrefix.byte ++ r.byte :: 0x0F#8 :: 0x9E#8 :: f.rm.encode f.reg ∧
    (Instr.setnge f).encode = f.prefixes.map LegacyPrefix.byte ++ 0x0F#8 :: 0x9C#8 :: f.rm.encode f.reg ∧
    (Instr.setngeRex r f).encode = f.prefixes.map LegacyPrefix.byte ++ r.byte :: 0x0F#8 :: 0x9C#8 :: f.rm.encode f.reg ∧
    (Instr.setnl f).encode = f.prefixes.map LegacyPrefix.byte ++ 0x0F#8 :: 0x9D#8 :: f.rm.encode f.reg ∧
    (Instr.setnlRex r f).encode = f.prefixes.map LegacyPrefix.byte ++ r.byte :: 0x0F#8 :: 0x9D#8 :: f.rm.encode f.reg ∧
    (Instr.setnle f).encode = f.prefixes.map LegacyPrefix.byte ++ 0x0F#8 :: 0x9F#8 :: f.rm.encode f.reg ∧
    (Instr.setnleRex r f).encode = f.prefixes.map LegacyPrefix.byte ++ r.byte :: 0x0F#8 :: 0x9F#8 :: f.rm.encode f.reg ∧
    (Instr.setno f).encode = f.prefixes.map LegacyPrefix.byte ++ 0x0F#8 :: 0x91#8 :: f.rm.encode f.reg ∧
    (Instr.setnoRex r f).encode = f.prefixes.map LegacyPrefix.byte ++ r.byte :: 0x0F#8 :: 0x91#8 :: f.rm.encode f.reg ∧
    (Instr.setnp f).encode = f.prefixes.map LegacyPrefix.byte ++ 0x0F#8 :: 0x9B#8 :: f.rm.encode f.reg ∧
    (Instr.setnpRex r f).encode = f.prefixes.map LegacyPrefix.byte ++ r.byte :: 0x0F#8 :: 0x9B#8 :: f.rm.encode f.reg ∧
    (Instr.setns f).encode = f.prefixes.map LegacyPrefix.byte ++ 0x0F#8 :: 0x99#8 :: f.rm.encode f.reg ∧
    (Instr.setnsRex r f).encode = f.prefixes.map LegacyPrefix.byte ++ r.byte :: 0x0F#8 :: 0x99#8 :: f.rm.encode f.reg ∧
    (Instr.setnz f).encode = f.prefixes.map LegacyPrefix.byte ++ 0x0F#8 :: 0x95#8 :: f.rm.encode f.reg ∧
    (Instr.setnzRex r f).encode = f.prefixes.map LegacyPrefix.byte ++ r.byte :: 0x0F#8 :: 0x95#8 :: f.rm.encode f.reg ∧
    (Instr.seto f).encode = f.prefixes.map LegacyPrefix.byte ++ 0x0F#8 :: 0x90#8 :: f.rm.encode f.reg ∧
    (Instr.setoRex r f).encode = f.prefixes.map LegacyPrefix.byte ++ r.byte :: 0x0F#8 :: 0x90#8 :: f.rm.encode f.reg ∧
    (Instr.setp f).encode = f.prefixes.map LegacyPrefix.byte ++ 0x0F#8 :: 0x9A#8 :: f.rm.encode f.reg ∧
    (Instr.setpRex r f).encode = f.prefixes.map LegacyPrefix.byte ++ r.byte :: 0x0F#8 :: 0x9A#8 :: f.rm.encode f.reg ∧
    (Instr.setpe f).encode = f.prefixes.map LegacyPrefix.byte ++ 0x0F#8 :: 0x9A#8 :: f.rm.encode f.reg ∧
    (Instr.setpeRex r f).encode = f.prefixes.map LegacyPrefix.byte ++ r.byte :: 0x0F#8 :: 0x9A#8 :: f.rm.encode f.reg ∧
    (Instr.setpo f).encode = f.prefixes.map LegacyPrefix.byte ++ 0x0F#8 :: 0x9B#8 :: f.rm.encode f.reg ∧
    (Instr.setpoRex r f).encode = f.prefixes.map LegacyPrefix.byte ++ r.byte :: 0x0F#8 :: 0x9B#8 :: f.rm.encode f.reg ∧
    (Instr.sets f).encode = f.prefixes.map LegacyPrefix.byte ++ 0x0F#8 :: 0x98#8 :: f.rm.encode f.reg ∧
    (Instr.setsRex r f).encode = f.prefixes.map LegacyPrefix.byte ++ r.byte :: 0x0F#8 :: 0x98#8 :: f.rm.encode f.reg ∧
    (Instr.setz f).encode = f.prefixes.map LegacyPrefix.byte ++ 0x0F#8 :: 0x94#8 :: f.rm.encode f.reg ∧
    (Instr.setzRex r f).encode = f.prefixes.map LegacyPrefix.byte ++ r.byte :: 0x0F#8 :: 0x94#8 :: f.rm.encode f.reg

/-- In every mode, for every well-formed instruction with every operand, decoding its bytes followed by any bytes gives
the instruction (the first of its synonyms) and exactly the bytes that follow; an instruction that is the first of
its opcode decodes to itself. That a synonym decodes to the first of its names is the choice of assumption log 18.
(R50, R51, R54, R58, R60, R61, R63, R64, R70) -/
def Obligations.DecodeOfEncodeGivesInstruction : Prop :=
  ∀ (c : Ctx) (i : Instr) (rest : List Byte), i.wf c = true →
    decode c (i.encode ++ rest) = .ok (i.primary, rest) ∧
    (i = .ofCondition i.condition i.rex i.form → decode c (i.encode ++ rest) = .ok (i, rest))

/-- If decoding bytes gives an instruction and a rest, the instruction is well-formed in the mode, is the first of its
synonyms, and its encoding followed by the rest is the bytes decoded: every bit of the bytes is in the instruction.
That a decoded instruction is the first of its synonyms is the choice of assumption log 18. (R50, R51, R54, R58,
R60, R61, R63, R64, R70) -/
def Obligations.EncodeOfDecodeGivesBytes : Prop :=
  ∀ (c : Ctx) (bs : List Byte) (i : Instr) (rest : List Byte), decode c bs = .ok (i, rest) →
    i.wf c = true ∧ i.primary = i ∧ i.encode ++ rest = bs

/-- In every mode, after any admitted legacy prefixes a byte 66H, F2H or F3H makes the decoder answer undefinedPrefix,
whatever follows. (R68) -/
def Obligations.IgnoredPrefixesAreRefused : Prop :=
  ∀ (c : Ctx) (ps : List LegacyPrefix) (b : Byte) (rest : List Byte), prefixesOk ps = true →
    b = 0x66#8 ∨ b = 0xF2#8 ∨ b = 0xF3#8 →
    decode c (ps.map LegacyPrefix.byte ++ b :: rest) = .error .undefinedPrefix

/-- In every mode but 64-bit mode, where a byte 40H to 4FH follows any admitted legacy prefixes the decoder answers
notSetcc, whatever follows. (R76) -/
def Obligations.RexByteBelongsToSetccOnlyIn64BitMode : Prop :=
  ∀ (c : Ctx) (ps : List LegacyPrefix) (b : Byte) (rest : List Byte), c.mode ≠ .long64 → prefixesOk ps = true →
    0x40 ≤ b.toNat → b.toNat ≤ 0x4F → decode c (ps.map LegacyPrefix.byte ++ b :: rest) = .error .notSetcc

/-- After admitted legacy prefixes, in every mode: a byte that is no legacy prefix, not 66H, F2H or F3H, not 0FH and (in
64-bit mode) no REX byte is notSetcc; 0FH and a byte outside 90H to 9FH is notSetcc; in 64-bit mode a REX byte and
then a byte other than 0FH, or 0FH and a byte outside 90H to 9FH, is notSetcc; a second LOCK or 67H is
repeatedPrefix, a second segment override multiSegPrefix. A register form with an override is segPrefixOnReg; a
memory form with ES, CS, SS or DS in 64-bit mode is nullSegPrefix. 66H, F2H and F3H are IgnoredPrefixesAreRefused.
No bytes are tooLong, since what is repeated is refused first. (R58, R66, R69, R70, R71) -/
def Obligations.RefusedFormsByName : Prop :=
  (∀ (c : Ctx) (ps : List LegacyPrefix) (b b' : Byte) (rest : List Byte), c.mode = .long64 → prefixesOk ps = true →
      0x40 ≤ b.toNat → b.toNat ≤ 0x4F → b' ≠ 0x0F#8 →
      decode c (ps.map LegacyPrefix.byte ++ b :: b' :: rest) = .error .notSetcc) ∧
    (∀ (c : Ctx) (ps : List LegacyPrefix) (p : LegacyPrefix) (rest : List Byte), prefixesOk ps = true →
      ps.any p.sameKind = true →
      decode c (ps.map LegacyPrefix.byte ++ p.byte :: rest) =
        .error (match p with
          | .segment _ => .multiSegPrefix
          | .lock => .repeatedPrefix
          | .addressSize => .repeatedPrefix)) ∧
    (∀ (c : Ctx) (ps : List LegacyPrefix) (b : Byte) (rest : List Byte), prefixesOk ps = true →
      b.toNat < 0x90 ∨ 0x9F < b.toNat →
      decode c (ps.map LegacyPrefix.byte ++ 0x0F#8 :: b :: rest) = .error .notSetcc) ∧
    (∀ (c : Ctx) (ps : List LegacyPrefix) (b : Byte) (rest : List Byte), prefixesOk ps = true →
      b ∉ [0xF0#8, 0x26#8, 0x2E#8, 0x36#8, 0x3E#8, 0x64#8, 0x65#8, 0x67#8, 0x66#8, 0xF2#8, 0xF3#8] → b ≠ 0x0F#8 →
      ¬(c.mode = .long64 ∧ 0x40 ≤ b.toNat ∧ b.toNat ≤ 0x4F) →
      decode c (ps.map LegacyPrefix.byte ++ b :: rest) = .error .notSetcc) ∧
    (∀ (c : Ctx) (ps : List LegacyPrefix) (b b' : Byte) (rest : List Byte), c.mode = .long64 → prefixesOk ps = true →
      0x40 ≤ b.toNat → b.toNat ≤ 0x4F → b'.toNat < 0x90 ∨ 0x9F < b'.toNat →
      decode c (ps.map LegacyPrefix.byte ++ b :: 0x0F#8 :: b' :: rest) = .error .notSetcc) ∧
    (∀ (c : Ctx) (bs : List Byte), decode c bs ≠ .error .tooLong) ∧
    (∀ (c : Ctx) (i : Instr) (n : SegName) (rest : List Byte), prefixesOk i.form.prefixes = true →
      (i.rex = none ∨ c.mode = .long64) → i.form.override = some n → i.form.rm.isReg = true →
      decode c (i.encode ++ rest) = .error .segPrefixOnReg) ∧
    (∀ (c : Ctx) (i : Instr) (n : SegName) (rest : List Byte), prefixesOk i.form.prefixes = true → c.mode = .long64 →
      i.form.override = some n → n = .es ∨ n = .cs ∨ n = .ss ∨ n = .ds → i.form.rm.isReg = false →
      i.form.rm.wf (addrSize c i.form.hasAddressSize) = true →
      decode c (i.encode ++ rest) = .error .nullSegPrefix)

/-- setbe sil, setl byte [rbx+rcx*4+0x100], setge byte [fs:rax] (a word that setnl shares), lock sete byte [rbx] and
setae byte [rip+0x10], sete byte [rbx+0x12345678], sete byte [rcx*4+0x12345678] (SIB base 5, mod 0), sete byte
[rbp+rcx*4+0x10] (SIB base 5, mod 1), sete byte [rax+r9] (REX.X), sete byte [r8] (REX.B) and setne cl with REX.R and
with REX.W in 64-bit mode; sete byte [bp+2], sete byte [0x1234] (mod 0, rm 6), sete byte [bx+0x1234], sete byte
[ebx] (67H) and sete byte [bx] with each of the six overrides in real-address mode, from their bytes. That a word
decodes to the first of its synonyms is the choice of assumption log 18. (R52, R54, R57, R58, R60, R61, R62, R63,
R64, R65, R66, R67) -/
def Obligations.WrittenOutWordsDecode : Prop :=
  decode ⟨.long64, .size16⟩ [0x40, 0x0F, 0x96, 0xC6] =
      .ok (.setbeRex ⟨false, false, false, false⟩ ⟨[], 0, .reg 6⟩, []) ∧
    decode ⟨.long64, .size16⟩ [0x0F, 0x9C, 0x84, 0x8B, 0x00, 0x01, 0x00, 0x00] =
      .ok (.setl ⟨[], 0, .sib 2 1 3 (.disp32 0x100)⟩, []) ∧
    decode ⟨.long64, .size16⟩ [0x64, 0x0F, 0x9D, 0x00] = .ok (.setge ⟨[.segment .fs], 0, .based 0 .none⟩, []) ∧
    decode ⟨.long64, .size16⟩ [0xF0, 0x0F, 0x94, 0x03] = .ok (.sete ⟨[.lock], 0, .based 3 .none⟩, []) ∧
    decode ⟨.long64, .size16⟩ [0x0F, 0x93, 0x05, 0x10, 0x00, 0x00, 0x00] = .ok (.setae ⟨[], 0, .direct 0x10⟩, []) ∧
    decode ⟨.real, .size16⟩ [0x0F, 0x94, 0x46, 0x02] = .ok (.sete ⟨[], 0, .based16 .bp (.disp8 2)⟩, []) ∧
    decode ⟨.long64, .size16⟩ [0x0F, 0x94, 0x83, 0x78, 0x56, 0x34, 0x12] =
      .ok (.sete ⟨[], 0, .based 3 (.disp32 0x12345678)⟩, []) ∧
    decode ⟨.long64, .size16⟩ [0x0F, 0x94, 0x04, 0x8D, 0x78, 0x56, 0x34, 0x12] =
      .ok (.sete ⟨[], 0, .sibNoBase 2 1 0x12345678⟩, []) ∧
    decode ⟨.long64, .size16⟩ [0x0F, 0x94, 0x44, 0x8D, 0x10] = .ok (.sete ⟨[], 0, .sib 2 1 5 (.disp8 0x10)⟩, []) ∧
    decode ⟨.long64, .size16⟩ [0x42, 0x0F, 0x94, 0x04, 0x08] =
      .ok (.seteRex ⟨false, false, true, false⟩ ⟨[], 0, .sib 0 1 0 .none⟩, []) ∧
    decode ⟨.long64, .size16⟩ [0x41, 0x0F, 0x94, 0x00] =
      .ok (.seteRex ⟨false, false, false, true⟩ ⟨[], 0, .based 0 .none⟩, []) ∧
    decode ⟨.long64, .size16⟩ [0x44, 0x0F, 0x95, 0xC1] =
      .ok (.setneRex ⟨false, true, false, false⟩ ⟨[], 0, .reg 1⟩, []) ∧
    decode ⟨.long64, .size16⟩ [0x48, 0x0F, 0x95, 0xC1] =
      .ok (.setneRex ⟨true, false, false, false⟩ ⟨[], 0, .reg 1⟩, []) ∧
    decode ⟨.real, .size16⟩ [0x0F, 0x94, 0x06, 0x34, 0x12] = .ok (.sete ⟨[], 0, .abs16 0x1234⟩, []) ∧
    decode ⟨.real, .size16⟩ [0x0F, 0x94, 0x87, 0x34, 0x12] = .ok (.sete ⟨[], 0, .based16 .bx (.disp16 0x1234)⟩, []) ∧
    decode ⟨.real, .size16⟩ [0x67, 0x0F, 0x94, 0x03] = .ok (.sete ⟨[.addressSize], 0, .based 3 .none⟩, []) ∧
    decode ⟨.real, .size16⟩ [0x26, 0x0F, 0x94, 0x07] = .ok (.sete ⟨[.segment .es], 0, .based16 .bx .none⟩, []) ∧
    decode ⟨.real, .size16⟩ [0x2E, 0x0F, 0x94, 0x07] = .ok (.sete ⟨[.segment .cs], 0, .based16 .bx .none⟩, []) ∧
    decode ⟨.real, .size16⟩ [0x36, 0x0F, 0x94, 0x07] = .ok (.sete ⟨[.segment .ss], 0, .based16 .bx .none⟩, []) ∧
    decode ⟨.real, .size16⟩ [0x3E, 0x0F, 0x94, 0x07] = .ok (.sete ⟨[.segment .ds], 0, .based16 .bx .none⟩, []) ∧
    decode ⟨.real, .size16⟩ [0x64, 0x0F, 0x94, 0x07] = .ok (.sete ⟨[.segment .fs], 0, .based16 .bx .none⟩, []) ∧
    decode ⟨.real, .size16⟩ [0x65, 0x0F, 0x94, 0x07] = .ok (.sete ⟨[.segment .gs], 0, .based16 .bx .none⟩, [])

/-- SETAE, SETB, SETC, SETNAE, SETNB, SETNC, each without and with REX, with every operand form: wherever the
instruction issues, has no LOCK prefix and its destination can be written, exec answers the next state in which the
destination byte is 01H by CF (CF=1 for SETB, SETC, SETNAE; CF=0 for SETAE, SETNB, SETNC), else 00H, pc has advanced
by the length, and nothing else has changed. (R91, R92, R94, R101, R102, R104) -/
def Obligations.CarrySetccComplete : Prop :=
  (∀ (f : Form) (s : State), s.ready none f = true →
      exec (.setae f) s = .next (s.afterSet (!s.flags.cf) none f) ∧
      exec (.setb f) s = .next (s.afterSet (s.flags.cf) none f) ∧
      exec (.setc f) s = .next (s.afterSet (s.flags.cf) none f) ∧
      exec (.setnae f) s = .next (s.afterSet (s.flags.cf) none f) ∧
      exec (.setnb f) s = .next (s.afterSet (!s.flags.cf) none f) ∧
      exec (.setnc f) s = .next (s.afterSet (!s.flags.cf) none f)) ∧
    (∀ (r : Rex) (f : Form) (s : State), s.ready (some r) f = true →
      exec (.setaeRex r f) s = .next (s.afterSet (!s.flags.cf) (some r) f) ∧
      exec (.setbRex r f) s = .next (s.afterSet (s.flags.cf) (some r) f) ∧
      exec (.setcRex r f) s = .next (s.afterSet (s.flags.cf) (some r) f) ∧
      exec (.setnaeRex r f) s = .next (s.afterSet (s.flags.cf) (some r) f) ∧
      exec (.setnbRex r f) s = .next (s.afterSet (!s.flags.cf) (some r) f) ∧
      exec (.setncRex r f) s = .next (s.afterSet (!s.flags.cf) (some r) f))

/-- SETA, SETBE, SETNA, SETNBE, each without and with REX, with every operand form: wherever the instruction issues, has
no LOCK prefix and its destination can be written, exec answers the next state in which the destination byte is 01H
by CF and ZF (both 0 for SETA, SETNBE; one of them 1 for SETBE, SETNA), else 00H, pc has advanced by the length, and
nothing else has changed. (R90, R93, R100, R103) -/
def Obligations.AboveSetccComplete : Prop :=
  (∀ (f : Form) (s : State), s.ready none f = true →
      exec (.seta f) s = .next (s.afterSet (!s.flags.cf && !s.flags.zf) none f) ∧
      exec (.setbe f) s = .next (s.afterSet (s.flags.cf || s.flags.zf) none f) ∧
      exec (.setna f) s = .next (s.afterSet (s.flags.cf || s.flags.zf) none f) ∧
      exec (.setnbe f) s = .next (s.afterSet (!s.flags.cf && !s.flags.zf) none f)) ∧
    (∀ (r : Rex) (f : Form) (s : State), s.ready (some r) f = true →
      exec (.setaRex r f) s = .next (s.afterSet (!s.flags.cf && !s.flags.zf) (some r) f) ∧
      exec (.setbeRex r f) s = .next (s.afterSet (s.flags.cf || s.flags.zf) (some r) f) ∧
      exec (.setnaRex r f) s = .next (s.afterSet (s.flags.cf || s.flags.zf) (some r) f) ∧
      exec (.setnbeRex r f) s = .next (s.afterSet (!s.flags.cf && !s.flags.zf) (some r) f))

/-- SETE, SETNE, SETNZ, SETZ, each without and with REX, with every operand form: wherever the instruction issues, has
no LOCK prefix and its destination can be written, exec answers the next state in which the destination byte is 01H
by ZF (1 for SETE, SETZ; 0 for SETNE, SETNZ), else 00H, pc has advanced by the length, and nothing else has changed.
(R95, R105, R113, R119) -/
def Obligations.EqualSetccComplete : Prop :=
  (∀ (f : Form) (s : State), s.ready none f = true →
      exec (.sete f) s = .next (s.afterSet (s.flags.zf) none f) ∧
      exec (.setne f) s = .next (s.afterSet (!s.flags.zf) none f) ∧
      exec (.setnz f) s = .next (s.afterSet (!s.flags.zf) none f) ∧
      exec (.setz f) s = .next (s.afterSet (s.flags.zf) none f)) ∧
    (∀ (r : Rex) (f : Form) (s : State), s.ready (some r) f = true →
      exec (.seteRex r f) s = .next (s.afterSet (s.flags.zf) (some r) f) ∧
      exec (.setneRex r f) s = .next (s.afterSet (!s.flags.zf) (some r) f) ∧
      exec (.setnzRex r f) s = .next (s.afterSet (!s.flags.zf) (some r) f) ∧
      exec (.setzRex r f) s = .next (s.afterSet (s.flags.zf) (some r) f))

/-- SETG, SETGE, SETL, SETLE, SETNG, SETNGE, SETNL, SETNLE, each without and with REX, with every operand form: wherever
the instruction issues, has no LOCK prefix and its destination can be written, exec answers the next state in which
the destination byte is 01H by the signed relation of their rules, else 00H, pc has advanced by the length, and
nothing else has changed. (R96, R97, R98, R99, R106, R107, R108, R109) -/
def Obligations.SignedSetccComplete : Prop :=
  (∀ (f : Form) (s : State), s.ready none f = true →
      exec (.setg f) s = .next (s.afterSet (!s.flags.zf && s.flags.sf == s.flags.of) none f) ∧
      exec (.setge f) s = .next (s.afterSet (s.flags.sf == s.flags.of) none f) ∧
      exec (.setl f) s = .next (s.afterSet (s.flags.sf != s.flags.of) none f) ∧
      exec (.setle f) s = .next (s.afterSet (s.flags.zf || s.flags.sf != s.flags.of) none f) ∧
      exec (.setng f) s = .next (s.afterSet (s.flags.zf || s.flags.sf != s.flags.of) none f) ∧
      exec (.setnge f) s = .next (s.afterSet (s.flags.sf != s.flags.of) none f) ∧
      exec (.setnl f) s = .next (s.afterSet (s.flags.sf == s.flags.of) none f) ∧
      exec (.setnle f) s = .next (s.afterSet (!s.flags.zf && s.flags.sf == s.flags.of) none f)) ∧
    (∀ (r : Rex) (f : Form) (s : State), s.ready (some r) f = true →
      exec (.setgRex r f) s = .next (s.afterSet (!s.flags.zf && s.flags.sf == s.flags.of) (some r) f) ∧
      exec (.setgeRex r f) s = .next (s.afterSet (s.flags.sf == s.flags.of) (some r) f) ∧
      exec (.setlRex r f) s = .next (s.afterSet (s.flags.sf != s.flags.of) (some r) f) ∧
      exec (.setleRex r f) s = .next (s.afterSet (s.flags.zf || s.flags.sf != s.flags.of) (some r) f) ∧
      exec (.setngRex r f) s = .next (s.afterSet (s.flags.zf || s.flags.sf != s.flags.of) (some r) f) ∧
      exec (.setngeRex r f) s = .next (s.afterSet (s.flags.sf != s.flags.of) (some r) f) ∧
      exec (.setnlRex r f) s = .next (s.afterSet (s.flags.sf == s.flags.of) (some r) f) ∧
      exec (.setnleRex r f) s = .next (s.afterSet (!s.flags.zf && s.flags.sf == s.flags.of) (some r) f))

/-- SETNO, SETNS, SETO, SETS, each without and with REX, with every operand form: wherever the instruction issues, has
no LOCK prefix and its destination can be written, exec answers the next state in which the destination byte is 01H
by OF or SF, else 00H, pc has advanced by the length, and nothing else has changed. (R110, R112, R114, R118) -/
def Obligations.SignAndOverflowSetccComplete : Prop :=
  (∀ (f : Form) (s : State), s.ready none f = true →
      exec (.setno f) s = .next (s.afterSet (!s.flags.of) none f) ∧
      exec (.setns f) s = .next (s.afterSet (!s.flags.sf) none f) ∧
      exec (.seto f) s = .next (s.afterSet (s.flags.of) none f) ∧
      exec (.sets f) s = .next (s.afterSet (s.flags.sf) none f)) ∧
    (∀ (r : Rex) (f : Form) (s : State), s.ready (some r) f = true →
      exec (.setnoRex r f) s = .next (s.afterSet (!s.flags.of) (some r) f) ∧
      exec (.setnsRex r f) s = .next (s.afterSet (!s.flags.sf) (some r) f) ∧
      exec (.setoRex r f) s = .next (s.afterSet (s.flags.of) (some r) f) ∧
      exec (.setsRex r f) s = .next (s.afterSet (s.flags.sf) (some r) f))

/-- SETNP, SETP, SETPE, SETPO, each without and with REX, with every operand form: wherever the instruction issues, has
no LOCK prefix and its destination can be written, exec answers the next state in which the destination byte is 01H
by PF (1 for SETP, SETPE; 0 for SETNP, SETPO), else 00H, pc has advanced by the length, and nothing else has
changed. (R111, R115, R116, R117) -/
def Obligations.ParitySetccComplete : Prop :=
  (∀ (f : Form) (s : State), s.ready none f = true →
      exec (.setnp f) s = .next (s.afterSet (!s.flags.pf) none f) ∧
      exec (.setp f) s = .next (s.afterSet (s.flags.pf) none f) ∧
      exec (.setpe f) s = .next (s.afterSet (s.flags.pf) none f) ∧
      exec (.setpo f) s = .next (s.afterSet (!s.flags.pf) none f)) ∧
    (∀ (r : Rex) (f : Form) (s : State), s.ready (some r) f = true →
      exec (.setnpRex r f) s = .next (s.afterSet (!s.flags.pf) (some r) f) ∧
      exec (.setpRex r f) s = .next (s.afterSet (s.flags.pf) (some r) f) ∧
      exec (.setpeRex r f) s = .next (s.afterSet (s.flags.pf) (some r) f) ∧
      exec (.setpoRex r f) s = .next (s.afterSet (!s.flags.pf) (some r) f))

/-- For every instruction of the table: wherever it issues, has no LOCK prefix and its destination can be written, exec
answers a next state with pc + len in which the byte register of a register form, or the byte at the address a
memory form stores to, holds 01H if the condition holds of the flags as they read and 00H if not. (R81) -/
def Obligations.EverySetccWritesItsByte : Prop :=
  ∀ (i : Instr) (s : State), s.ready i.rex i.form = true →
    ∃ t, exec i s = .next t ∧ t.pc = s.pc + BitVec.ofNat 64 i.length ∧
      (∀ rm, i.form.rm = .reg rm →
        t.readReg8 (byteRegister i.rex rm) = if s.flags.holds i.condition then 0x01 else 0x00) ∧
      (i.form.rm.isReg = false →
        ∃ p, s.storesTo i.rex i.form = some p ∧
          t.readByte p = some (if s.flags.holds i.condition then 0x01 else 0x00))

/-- Whenever exec of any instruction answers a next state: the flags register, which flags are unfixed, mode, csD,
paging, segments, text, breakpoints and model arguments are unchanged; a register form changes no byte of memory, no
other register, and only its 8 bits of its own register; a memory form changes no register and no byte of memory but
the one at the address it stores to. If no flag is unfixed, every flag reads as before; the number of the next draw
of an unfixed flag grows by one (assumption log 25). (R83, R26) -/
def Obligations.SetccFrame : Prop :=
  ∀ (i : Instr) (s t : State), exec i s = .next t →
    s.sameSetting t ∧ t.draws = s.draws + 1 ∧ (s.unfixed = ⟨false, false, false, false, false⟩ → t.flags = s.flags) ∧
    (∀ rm, i.form.rm = .reg rm →
      (∀ q, t.readByte q = s.readByte q) ∧
      (∀ j, j ≠ (byteRegister i.rex rm).number → t.reg j = s.reg j) ∧
      (∀ k, byteRegister i.rex rm = .low k → (t.reg k).extractLsb' 8 56 = (s.reg k).extractLsb' 8 56) ∧
      (∀ k, byteRegister i.rex rm = .high k →
        (t.reg (0#2 ++ k)).extractLsb' 16 48 = (s.reg (0#2 ++ k)).extractLsb' 16 48 ∧
        (t.reg (0#2 ++ k)).extractLsb' 0 8 = (s.reg (0#2 ++ k)).extractLsb' 0 8)) ∧
    (i.form.rm.isReg = false →
      (∀ j, t.reg j = s.reg j) ∧
      (∀ p, s.storesTo i.rex i.form = some p → ∀ q, q ≠ p → t.readByte q = s.readByte q) ∧
      (s.storesTo i.rex i.form).isSome = true)

/-- After any number of completed steps from any state, EFLAGS, which flags are unfixed, mode, csD, paging, segments,
text, breakpoints and model arguments are those of the start, so, where no flag is unfixed (FlagsDefined), every
SETcc of a run tests the same flags. (R17, R20, R173) -/
def Obligations.RunKeepsFlagsAndSetting : Prop :=
  ∀ (k : Nat) (s t : State), Sys2Proof.core.run k s = .next t →
    s.sameSetting t ∧ (s.unfixed = ⟨false, false, false, false, false⟩ → t.flags = s.flags)

/-- Two instructions with the same condition, the same legacy prefixes and the same operand, both without REX or both
with REX of the same B and (where there is a SIB byte) X, have the same outcome in every state, whatever their
mnemonic, reg field, REX.W and REX.R. (R53, R55, R59) -/
def Obligations.IgnoredEncodingBitsDoNotMatter : Prop :=
  ∀ (i j : Instr) (s : State), i.condition = j.condition → i.form.prefixes = j.form.prefixes → i.form.rm = j.form.rm →
    i.rex.isSome = j.rex.isSome → rexB i.rex = rexB j.rex →
    (rexX i.rex = rexX j.rex ∨
      ¬((∃ sc ix b d, i.form.rm = .sib sc ix b d) ∨ (∃ sc ix d, i.form.rm = .sibNoBase sc ix d))) →
    exec i s = exec j s

/-- If exec of an instruction answers a next state, then from the state with any other byte in the destination (the byte
at the address stored to, or the byte register) exec answers the same next state. (R34, R81, R86) -/
def Obligations.DestinationIsWrittenNotRead : Prop :=
  (∀ (i : Instr) (s t : State) (p : Word) (v : Byte), exec i s = .next t → s.storesTo i.rex i.form = some p →
      exec i (s.writeByte p v) = .next t) ∧
    (∀ (i : Instr) (s t : State) (rm : BitVec 3) (v : Byte), exec i s = .next t → i.form.rm = .reg rm →
      exec i (s.writeReg8 (byteRegister i.rex rm) v) = .next t)

/-- If a register-form SETcc without REX completes in one mode, then in any other mode in which its bytes and the next
pc are in range it completes with the same next state but for the mode. The range of pc is that of assumption log
12. (R154, R81) -/
def Obligations.RegisterFormIsSameInEveryMode : Prop :=
  ∀ (i : Instr) (s t : State) (rm : BitVec 3) (m : Mode), i.rex = none → i.form.rm = .reg rm → exec i s = .next t →
    ({ s with mode := m }).pcInRange i.length = true → exec i { s with mode := m } = .next { t with mode := m }

/-- With a translation that answers an address: in 64-bit mode a canonical linear address, in protected and
compatibility mode an offset inside the limit of a writable segment other than CS that is SS or not NULL, in real-
address and virtual-8086 mode an offset inside the limit, makes the form store to the translated address. With
paging off a linear address is translated to itself; with paging on it is what Translate answers for it, for the
access and for the privilege of the state: the result of the first entry of its table for the three, and the linear
address itself where there is none. That Translate is given as such a table is assumption log 2. (R41, R40, R172) -/
def Obligations.AddressesThatPassTheChecks : Prop :=
  (∀ (s : State) (rex : Option Rex) (f : Form) (n : SegName) (ea p : Word), destination s rex f = .mem n ea →
    s.translate (s.linear n ea) true = .ok p →
    (s.mode = .long64 → canonical s.cfg.vaBits (s.linear n ea) = true → s.storesTo rex f = some p) ∧
    (s.mode = .prot ∨ s.mode = .compat → n ≠ .cs → (s.seg n).writable = true → (s.seg n).outsideLimit ea = false →
      n = .ss ∨ (s.seg n).selector.toNat ≥ 4 → s.storesTo rex f = some p) ∧
    (s.mode = .real ∨ s.mode = .v86 → (s.seg n).outsideLimit ea = false → s.storesTo rex f = some p) ∧
    (s.pagingOn = false → p = s.linear n ea) ∧
    (s.pagingOn = true → translateBy s.cfg.translations (s.linear n ea) true s.user = .ok p)) ∧
  (∀ (s : State) (a : Word) (write : Bool),
    (s.pagingOn = false → s.translate a write = .ok a) ∧
    (s.pagingOn = true → s.translate a write = translateBy s.cfg.translations a write s.user)) ∧
  (∀ (before after : List TranslateEntry) (e : TranslateEntry),
    (∀ x ∈ before, ¬(x.linear = e.linear ∧ x.write = e.write ∧ x.user = e.user)) →
    translateBy (before ++ e :: after) e.linear e.write e.user = e.result) ∧
  (∀ (table : List TranslateEntry) (a : Word) (write user : Bool),
    (∀ x ∈ table, ¬(x.linear = a ∧ x.write = write ∧ x.user = user)) → translateBy table a write user = .ok a)

/-- For every instruction and state: if the instruction issues and carries the LOCK prefix, exec answers the fault #UD,
which has no error code, whatever the destination. (R131) -/
def Obligations.LockPrefixRaisesInvalidOpcode : Prop :=
  ∀ (i : Instr) (s : State), s.issues i.rex i.form = true → i.form.locked = true →
    exec i s = .fault .ud ∧ Fault.ud.errorCode = none

/-- In protected mode a memory destination in a segment that is not writable raises #GP(0) (for SS, whose limit
violation is #SS(0), when the offset is inside the limit); through CS it always does. The order of the two checks on
SS is the choice of assumption log 11; that CS is never writable is log 10. (R132) -/
def Obligations.ProtectedModeNonWritableSegmentFaults : Prop :=
  ∀ (i : Instr) (s : State) (n : SegName) (ea : Word), s.mode = .prot → s.addresses i n ea →
    ((s.seg n).writable = false → n ≠ .ss ∨ (s.seg n).outsideLimit ea = false → exec i s = .fault (.gp (some 0))) ∧
    (n = .cs → exec i s = .fault (.gp (some 0)))

/-- In protected mode a memory destination outside the limit of CS, DS, ES, FS or GS raises #GP(0), outside the limit of
SS #SS(0); the byte at the limit of an expand-up segment is inside and the next one outside. (R133, R135) -/
def Obligations.ProtectedModeSegmentLimitFaults : Prop :=
  (∀ (i : Instr) (s : State) (n : SegName) (ea : Word), s.mode = .prot → s.addresses i n ea →
      (s.seg n).outsideLimit ea = true →
      (n ≠ .ss → exec i s = .fault (.gp (some 0))) ∧ (n = .ss → exec i s = .fault (.ss (some 0)))) ∧
    (∀ r : SegReg, r.expandDown = false →
      r.outsideLimit (r.limit.setWidth 64) = false ∧ r.outsideLimit (r.limit.setWidth 64 + 1) = true)

/-- In protected mode a memory destination through DS, ES, FS or GS whose selector is NULL (0 to 3) raises #GP(0); the
check depends on no other segment register, and no NULL selector in SS raises anything. (R134) -/
def Obligations.ProtectedModeNullSelectorFaults : Prop :=
  ∀ (i : Instr) (s : State) (n : SegName) (ea : Word), s.mode = .prot → s.addresses i n ea →
    (n = .ds ∨ n = .es ∨ n = .fs ∨ n = .gs → (s.seg n).selector.toNat ≤ 3 → exec i s = .fault (.gp (some 0))) ∧
    (∀ g : SegFile, g.get n = s.segs.get n → ({ s with segs := g }).segmentFault n ea = s.segmentFault n ea) ∧
    (n = .ss → (s.seg .ss).writable = true → (s.seg .ss).outsideLimit ea = false → s.segmentFault n ea = none)

/-- With paging on, if the segment or canonical check finds nothing and Translate answers a page fault for the write,
exec answers #PF with that code and the destination linear address; paging is always on in 64-bit and compatibility
mode, never in real-address mode, and by CR0.PG in protected and virtual-8086 mode; the access is a user access in
virtual-8086 mode, and in protected, compatibility and 64-bit mode exactly when the low two bits of the CS selector
are 3. #PF is answered only with paging on, only when those checks find nothing, and only with the code Translate
answers for that address. That CPL is read from the CS selector is assumption log 9; paging in compatibility and
virtual-8086 mode is log 15. (R136, R141, R145, R40, R154) -/
def Obligations.PageFaultIsRaisedAfterSegmentChecks : Prop :=
  (∀ (i : Instr) (s : State) (n : SegName) (ea : Word) (code : BitVec 32), s.addresses i n ea → s.pagingOn = true →
      s.segmentFault n ea = none →
      translateBy s.cfg.translations (s.linear n ea) true s.user = .pageFault code →
      exec i s = .fault (.pf code (s.linear n ea))) ∧
    (∀ s : State, (s.mode = .long64 ∨ s.mode = .compat → s.pagingOn = true) ∧ (s.mode = .real → s.pagingOn = false) ∧
      (s.mode = .prot ∨ s.mode = .v86 → s.pagingOn = s.paging) ∧ (s.mode = .v86 → s.user = true) ∧
      (s.mode = .prot ∨ s.mode = .compat ∨ s.mode = .long64 →
        (s.user = true ↔ s.segs.cs.selector.toNat % 4 = 3))) ∧
    (∀ (i : Instr) (s : State) (code : BitVec 32) (a : Word), exec i s = .fault (.pf code a) →
      s.pagingOn = true ∧ ∃ n ea, s.addresses i n ea ∧ s.segmentFault n ea = none ∧ a = s.linear n ea ∧
        translateBy s.cfg.translations a true s.user = .pageFault code)

/-- In real-address mode a memory destination outside the limit raises #SS for SS and #GP for any other segment, without
an error code; no instruction raises #PF there, and a destination inside the limit, through CS too, raises nothing;
with limit FFFFH and address size 16 every destination is inside. (R137, R138) -/
def Obligations.RealModeLimitFaultsWithoutErrorCode : Prop :=
  (∀ (i : Instr) (s : State) (n : SegName) (ea : Word), s.mode = .real → s.addresses i n ea →
      ((s.seg n).outsideLimit ea = true →
        (n ≠ .ss → exec i s = .fault (.gp none)) ∧ (n = .ss → exec i s = .fault (.ss none))) ∧
      ((s.seg n).outsideLimit ea = false → ∀ x, exec i s ≠ .fault x)) ∧
    (∀ (i : Instr) (s : State) (code : BitVec 32) (a : Word), s.mode = .real → exec i s ≠ .fault (.pf code a)) ∧
    (∀ (i : Instr) (s : State) (n : SegName) (ea : Word), s.addresses i n ea →
      addrSize s.ctx i.form.hasAddressSize = .a16 → (s.seg n).limit = 0xFFFF → (s.seg n).expandDown = false →
      (s.seg n).outsideLimit ea = false)

/-- In virtual-8086 mode a memory destination outside the limit raises #SS(0) for SS and #GP(0) for any other segment; a
destination inside the limit raises at most #PF. (R139, R140) -/
def Obligations.Virtual8086ModeLimitFaults : Prop :=
  ∀ (i : Instr) (s : State) (n : SegName) (ea : Word), s.mode = .v86 → s.addresses i n ea →
    ((s.seg n).outsideLimit ea = true →
      (n ≠ .ss → exec i s = .fault (.gp (some 0))) ∧ (n = .ss → exec i s = .fault (.ss (some 0)))) ∧
    ((s.seg n).outsideLimit ea = false → ∀ x, exec i s = .fault x → ∃ code a, x = .pf code a)

/-- For every instruction and every protected-mode state with paging on, exec answers a fault exactly when it answers
the same fault in the state that differs only in being in compatibility mode. (R142) -/
def Obligations.CompatibilityModeFaultsAsProtectedMode : Prop :=
  ∀ (i : Instr) (s : State) (x : Fault), s.mode = .prot → s.paging = true →
    (exec i s = .fault x ↔ exec i { s with mode := .compat } = .fault x)

/-- In 64-bit mode a memory destination whose linear address is not canonical raises #SS(0) for SS and #GP(0) for any
other segment; one whose address is canonical raises at most #PF, whatever the segment limit, writability and
selector; the segment is SS exactly when the form has no override and its base register is RSP or RBP. (R143, R144) -/
def Obligations.NonCanonicalAddressFaults : Prop :=
  ∀ (i : Instr) (s : State) (n : SegName) (ea : Word), s.mode = .long64 → s.addresses i n ea →
    (canonical s.cfg.vaBits (s.linear n ea) = false →
      (n = .ss → exec i s = .fault (.ss (some 0))) ∧ (n ≠ .ss → exec i s = .fault (.gp (some 0)))) ∧
    (canonical s.cfg.vaBits (s.linear n ea) = true → ∀ x, exec i s = .fault x → ∃ code a, x = .pf code a) ∧
    (n = .ss ↔ i.form.override = none ∧
      ((∃ rm d, i.form.rm = .based rm d ∧
          (BitVec.ofBool (rexB i.rex) ++ rm = 4#4 ∨ BitVec.ofBool (rexB i.rex) ++ rm = 5#4)) ∨
        ∃ scale index base d, i.form.rm = .sib scale index base d ∧
          (BitVec.ofBool (rexB i.rex) ++ base = 4#4 ∨ BitVec.ofBool (rexB i.rex) ++ base = 5#4)))

/-- If exec answers a fault, it is #UD and the instruction carries LOCK, or the instruction has a memory destination and
no LOCK; #SS only through SS; the error code of #SS and #GP is 0, absent in real-address mode; #PF only with paging
on, with the code Translate answers for the destination linear address. A register form can raise only #UD. (R130,
R147, R148) -/
def Obligations.OnlyTheListedFaults : Prop :=
  ∀ (i : Instr) (s : State) (x : Fault), exec i s = .fault x →
    (x = .ud ∧ i.form.locked = true) ∨
    (i.form.rm.isReg = false ∧
      ∃ n ea, s.addresses i n ea ∧
        ((x = .ss (if s.mode = .real then none else some 0) ∧ n = .ss) ∨
          x = .gp (if s.mode = .real then none else some 0) ∨
          ∃ code, x = .pf code (s.linear n ea) ∧ s.pagingOn = true ∧
            translateBy s.cfg.translations (s.linear n ea) true s.user = .pageFault code))

/-- If the segment or canonical check of the destination finds an exception, exec answers it whatever Translate is; if
the instruction carries LOCK, exec answers #UD whatever the segments and Translate are. (R148) -/
def Obligations.SegmentFaultComesBeforePageFault : Prop :=
  (∀ (i : Instr) (s : State) (n : SegName) (ea : Word) (x : Fault) (ts : List TranslateEntry), s.addresses i n ea →
      s.segmentFault n ea = some x →
      exec i { s with cfg := { s.cfg with translations := ts } } = .fault x) ∧
    (∀ (i : Instr) (s : State) (ts : List TranslateEntry) (data : SegReg), s.issues i.rex i.form = true →
      i.form.locked = true →
      exec i { s with cfg := { s.cfg with translations := ts },
                      segs := ⟨data, s.segs.cs, data, data, data, data⟩ } = .fault .ud)

/-- #UD is vector 6 without error code; #SS is 12 and #GP is 13 with the error code they carry; #PF is 14 with the
fault-code and the faulting linear address; the other three have no fault address. (R130, R150) -/
def Obligations.ExceptionVectorsAndCodes : Prop :=
  ∀ (e : Option (BitVec 32)) (code : BitVec 32) (a : Word),
    (Fault.ud.vector = 6 ∧ Fault.ud.errorCode = none ∧ Fault.ud.faultAddress = none) ∧
    ((Fault.ss e).vector = 12 ∧ (Fault.ss e).errorCode = e ∧ (Fault.ss e).faultAddress = none) ∧
    ((Fault.gp e).vector = 13 ∧ (Fault.gp e).errorCode = e ∧ (Fault.gp e).faultAddress = none) ∧
    ((Fault.pf code a).vector = 14 ∧ (Fault.pf code a).errorCode = some code ∧ (Fault.pf code a).faultAddress = some a)

/-- If the address of a memory form resolves to a physical address inside the program text, exec refuses storeToText;
and no step changes any byte of the program text. Where the bytes of the program text lie physically is assumption
log 17. (R45) -/
def Obligations.StoreIntoProgramTextIsRefused : Prop :=
  (∀ (i : Instr) (s : State) (n : SegName) (ea p : Word) (k : Nat), s.addresses i n ea →
      s.storesTo i.rex i.form = some p → k < s.text.length →
      s.textAddress (s.text.base + BitVec.ofNat 64 k) = some p → exec i s = .refused .storeToText) ∧
    (∀ (s t : State), step s = .next t → ∀ a, t.fetchByte a = s.fetchByte a)

/-- If exec refuses, the instruction is not encodable in the mode (illFormed), or its bytes or next pc are out of range
(pcWrap), or its destination byte lies in the program text (storeToText) or in a device window (notPlainMemory, the
choice of assumption log 16); and each of these four causes gives that refusal, the last two where the instruction
reaches its destination address (wf, in range, without LOCK). The order of these refusals and faults is the choice
of assumption logs 13 (pcWrap before the #UD of LOCK) and 17, the range of pc is read by log 12, and illFormed is
log 21. (R14, R36, R45) -/
def Obligations.RefusalsOfWellFormedInstructions : Prop :=
  (∀ (i : Instr) (s : State) (r : Refusal), exec i s = .refused r →
      (r = .illFormed ∧ i.wf s.ctx = false) ∨
      (r = .pcWrap ∧ i.wf s.ctx = true ∧ s.pcInRange i.length = false) ∨
      (∃ p, s.storesTo i.rex i.form = some p ∧
        ((r = .storeToText ∧ s.inTextPhysical p = true) ∨
          (r = .notPlainMemory ∧ s.inTextPhysical p = false ∧ s.plainMemory p = false)))) ∧
    (∀ (i : Instr) (s : State), i.wf s.ctx = false → exec i s = .refused .illFormed) ∧
    (∀ (i : Instr) (s : State), i.wf s.ctx = true → s.pcInRange i.length = false → exec i s = .refused .pcWrap) ∧
    (∀ (i : Instr) (s : State) (n : SegName) (ea p : Word), s.addresses i n ea → s.storesTo i.rex i.form = some p →
      s.inTextPhysical p = true → exec i s = .refused .storeToText) ∧
    (∀ (i : Instr) (s : State) (n : SegName) (ea p : Word), s.addresses i n ea → s.storesTo i.rex i.form = some p →
      s.inTextPhysical p = false → s.plainMemory p = false → exec i s = .refused .notPlainMemory)

/-- Whenever exec answers a next state, pc as a number has grown by the length in bytes; it is canonical in 64-bit mode
and within the CS limit elsewhere. The range at its very top is the reading of assumption log 12. (R14, R69) -/
def Obligations.InstructionPointerAdvancesByLength : Prop :=
  ∀ (i : Instr) (s t : State), exec i s = .next t →
    t.pc.toNat = s.pc.toNat + i.length ∧ (s.mode = .long64 → canonical s.cfg.vaBits t.pc = true) ∧
    (s.mode ≠ .long64 → t.pc.toNat ≤ s.segs.cs.limit.toNat)

/-- step answers the refusal debugActive if and only if EFLAGS bit 8 (TF) is 1 or a breakpoint is armed. (R158) -/
def Obligations.ActiveDebugIsRefused : Prop :=
  ∀ s : State, step s = .refused .debugActive ↔ s.rflags.getLsbD 8 = true ∨ s.breakpointArmed = true

/-- With no debug feature active, if the bytes fetched at pc decode to an instruction, step is exec of that instruction
at that state; if decoding refuses them by a name, step refuses by that name (bytes that only end too soon:
FetchOutsideTextIsRefused). (R82, R47) -/
def Obligations.StepRunsDecodedInstruction : Prop :=
  (∀ (s : State) (i : Instr) (rest : List Byte), s.rflags.getLsbD 8 = false → s.breakpointArmed = false →
      decode s.ctx s.fetchWindow = .ok (i, rest) → step s = exec i s) ∧
    (∀ (s : State) (e : DecodeRefusal), s.rflags.getLsbD 8 = false → s.breakpointArmed = false →
      decode s.ctx s.fetchWindow = .error e → e ≠ .truncated → step s = .refused (.decoding e))

/-- With no debug feature active, if the program text at pc holds the bytes of a well-formed instruction, byte by byte,
and they are followed by anything, step is exec of that instruction at that state. What the program text holds at an
offset inside it is the memory byte at the linear address of the offset in CS, translated for a read; where that
translation answers a page fault, or outside the text, it holds nothing. Where the bytes of the program text lie is
assumption log 1. (R47, R53, R70, R82) -/
def Obligations.StepRunsEncodedInstruction : Prop :=
  (∀ (s : State) (i : Instr), s.rflags.getLsbD 8 = false → s.breakpointArmed = false → i.wf s.ctx = true →
    (∀ k (hk : k < i.encode.length), s.fetchByte (s.pc + BitVec.ofNat 64 k) = some i.encode[k]) →
    step s = exec i s) ∧
  (∀ (s : State) (a : Word),
    (s.inText a = true ↔ s.text.base.toNat ≤ a.toNat ∧ a.toNat < s.text.base.toNat + s.text.length) ∧
    (s.inText a = false → s.fetchByte a = none) ∧
    (s.inText a = true → ∀ p, s.translate (s.linear .cs a) false = .ok p → s.fetchByte a = s.readByte p) ∧
    (∀ code, s.translate (s.linear .cs a) false = .pageFault code → s.fetchByte a = none))

/-- With no debug feature active: just past the program text a step answers done. Anywhere else a step whose first byte
is missing (outside the text, or not readable there) is refused as fetchOutsideText, pc being in range; and where
the text holds the first m bytes of a well-formed instruction and byte m is missing, it is refused as
fetchOutsideText if byte m would be in the range of pc, else as pcWrap. The choice between those two is assumption
log 13; that the end of the run is the refusal done is log 24. (R47, R14, R176) -/
def Obligations.FetchOutsideTextIsRefused : Prop :=
  (∀ s : State, s.debugActive = false → s.pc.toNat = s.text.base.toNat + s.text.length → step s = .refused .done) ∧
    (∀ s : State, s.debugActive = false → s.pc.toNat ≠ s.text.base.toNat + s.text.length → s.pcInRange 1 = true →
      s.fetchByte s.pc = none → step s = .refused .fetchOutsideText) ∧
    (∀ (s : State) (i : Instr) (m : Nat), s.debugActive = false → s.pc.toNat ≠ s.text.base.toNat + s.text.length →
      i.wf s.ctx = true → m < i.encode.length →
      (∀ k, k < m → s.fetchByte (s.pc + BitVec.ofNat 64 k) = i.encode[k]?) →
      s.fetchByte (s.pc + BitVec.ofNat 64 m) = none →
      step s = .refused (if s.pcInRange (m + 1) then .fetchOutsideText else .pcWrap))

/-- For every state whose memory is in canonical form, whose EFLAGS reserved bits read as they must, whose VM flag
agrees with the mode and whose pc is legal for the mode: if step answers a next state, all of this holds of it.
(R14, R16, R20, R31, R83) -/
def Obligations.StepKeepsMachineInvariant : Prop :=
  ∀ s t : State, s.inv = true → step s = .next t → t.inv = true

/-- Memory in canonical form, the reserved bits of EFLAGS, VM against the mode, and a legal pc hold of the state after
reset (whose values are the family's, assumption log 4). (R16, R25) -/
def Obligations.ResetSatisfiesMachineInvariant : Prop :=
  State.reset.inv = true

/-- From any state, if k steps all complete then 3 * k is at most the length of the program text: every run ends,
whatever A20Masked is. The program text and its fetch are those of assumption log 1. (R176, R14, R69) -/
def Obligations.RunLengthIsBoundedByText : Prop :=
  ∀ (k : Nat) (s t : State), Sys2Proof.core.run k s = .next t → 3 * k ≤ s.text.length

/-- After reset: EFLAGS 2, EIP FFF0H, real-address mode, csD 16, paging off, CS selector F000H base FFFF0000H limit
FFFFH, the other segments selector 0 base 0 limit FFFFH writable, every general register but RDX 0, the first fetch
at linear FFFFFFF0H, IF 0, and cond(n) true exactly for odd n. The model takes these from the spec's general-
knowledge table (PRESUMED, assumption log 4). (R25, R171) -/
def Obligations.ResetStateIsTheFamilys : Prop :=
  let s := State.reset
  s.rflags = 2 ∧ s.pc = 0xFFF0 ∧ s.mode = .real ∧ s.csD = .size16 ∧ s.paging = false ∧ s.rflags.getLsbD 9 = false ∧
  s.segs.cs.selector = 0xF000 ∧ s.segs.cs.base = 0xFFFF0000 ∧ s.segs.cs.limit = 0xFFFF ∧
  (∀ n, n ≠ .cs → (s.seg n).selector = 0 ∧ (s.seg n).base = 0 ∧ (s.seg n).limit = 0xFFFF ∧ (s.seg n).writable = true) ∧
  (∀ i, i ≠ 2 → s.reg i = 0) ∧ s.linear .cs s.pc = 0xFFFFFFF0 ∧
  (∀ n : BitVec 4, s.test (conditionOf n) = n.getLsbD 0)

/-- In every state each of CF, PF, ZF, SF, OF reads as its bit of EFLAGS (0, 2, 6, 7, 11) unless it is marked unfixed,
and then as the free value with the number of this reading; whenever exec answers a next state the next reading has
the next number and the same flags are unfixed; after k completed steps the number has grown by k, so no two
readings of a run share a draw. The form of the draw is assumption log 25. (R26, R15, R16) -/
def Obligations.UnfixedFlagIsDrawnAtEachReading : Prop :=
  (∀ s : State,
      s.flags.cf = (if s.unfixed.cf then (Config.freeFlags s.draws).cf else s.rflags.getLsbD 0) ∧
      s.flags.pf = (if s.unfixed.pf then (Config.freeFlags s.draws).pf else s.rflags.getLsbD 2) ∧
      s.flags.zf = (if s.unfixed.zf then (Config.freeFlags s.draws).zf else s.rflags.getLsbD 6) ∧
      s.flags.sf = (if s.unfixed.sf then (Config.freeFlags s.draws).sf else s.rflags.getLsbD 7) ∧
      s.flags.of = (if s.unfixed.of then (Config.freeFlags s.draws).of else s.rflags.getLsbD 11)) ∧
    (∀ (i : Instr) (s t : State), exec i s = .next t → t.draws = s.draws + 1 ∧ t.unfixed = s.unfixed) ∧
    (∀ (k : Nat) (s t : State), Sys2Proof.core.run k s = .next t → t.draws = s.draws + k ∧ t.unfixed = s.unfixed)

/-- From every state the run of the text ends, after k completed steps with 3 * k at most the length of the text: in
done with the state whose pc is base + length, in fault with the state before the instruction that raised it, or in
refused with the state it was met in. With no debug feature active, if k steps complete and pc is then base +
length, the run ends in done with that state. The shape of a run is assumption logs 1 and 24. (R176, R150, R149) -/
def Obligations.RunEndsInDoneFaultOrRefused : Prop :=
  (∀ s : State, ∃ (k : Nat) (t : State), 3 * k ≤ s.text.length ∧ Sys2Proof.core.run k s = .next t ∧
      ((s.outcome = .done t ∧ t.pc.toNat = s.text.base.toNat + s.text.length) ∨
        (∃ x, s.outcome = .fault x t ∧ step t = .fault x) ∨
        (∃ why, s.outcome = .refused why t ∧ step t = .refused why ∧ why ≠ .done))) ∧
    (∀ (s t : State) (k : Nat), s.debugActive = false → Sys2Proof.core.run k s = .next t →
      t.pc.toNat = s.text.base.toNat + s.text.length → s.outcome = .done t)

/-- ModR/M is 64 mod + 8 reg + rm, SIB is 64 scale + 8 index + base, and a displacement follows them with its least
significant byte first: mod 3 is a register; at A = 16, mod 0 with rm 6 is disp16 alone and rm 0 to 7 are BX+SI,
BX+DI, BP+SI, BP+DI, SI, DI, BP, BX; at A = 32 and 64, mod 0 with rm 5 is disp32 alone or relative to the next
instruction, rm 4 is a SIB byte, and mod 0 with SIB base 5 is disp32 without a base; mod 0, 1 and 2 are no
displacement, disp8, and disp16 or disp32. (R54, R60, R61, R63, R64) -/
def Obligations.OperandBytesOfEveryForm : Prop :=
  ∀ (reg rm index base : BitVec 3) (scale : BitVec 2) (b : Base16) (d8 : BitVec 8) (d16 : BitVec 16) (d32 : BitVec 32),
    let bytes : RmOperand → List Nat := fun o => (o.encode reg).map BitVec.toNat
    let n16 : Nat := match b with
      | .bxSi => 0 | .bxDi => 1 | .bpSi => 2 | .bpDi => 3 | .si => 4 | .di => 5 | .bp => 6 | .bx => 7
    let modRM : Nat → Nat → Nat := fun mod rm => 64 * mod + 8 * reg.toNat + rm
    let sib : Nat → Nat := fun base => 64 * scale.toNat + 8 * index.toNat + base
    let disp16 : List Nat := [d16.toNat % 256, d16.toNat / 256]
    let disp32 : List Nat :=
      [d32.toNat % 256, d32.toNat / 256 % 256, d32.toNat / 65536 % 256, d32.toNat / 16777216]
    bytes (.reg rm) = [modRM 3 rm.toNat] ∧
    bytes (.abs16 d16) = modRM 0 6 :: disp16 ∧
    bytes (.based16 b .none) = [modRM 0 n16] ∧
    bytes (.based16 b (.disp8 d8)) = [modRM 1 n16, d8.toNat] ∧
    bytes (.based16 b (.disp16 d16)) = modRM 2 n16 :: disp16 ∧
    bytes (.direct d32) = modRM 0 5 :: disp32 ∧
    bytes (.based rm .none) = [modRM 0 rm.toNat] ∧
    bytes (.based rm (.disp8 d8)) = [modRM 1 rm.toNat, d8.toNat] ∧
    bytes (.based rm (.disp32 d32)) = modRM 2 rm.toNat :: disp32 ∧
    bytes (.sib scale index base .none) = [modRM 0 4, sib base.toNat] ∧
    bytes (.sib scale index base (.disp8 d8)) = [modRM 1 4, sib base.toNat, d8.toNat] ∧
    bytes (.sib scale index base (.disp32 d32)) = modRM 2 4 :: sib base.toNat :: disp32 ∧
    bytes (.sibNoBase scale index d32) = modRM 0 4 :: sib 5 :: disp32
end

