-- ==== Sys2Proof/Tests/Slice0.lean ====
section
/-! SUPPORT. Tests whose expected results come from spec/95_test_vectors.md and the encodings of 30_encoding.md, and the
witnesses of the obligations' hypotheses. -/

namespace Sys2Proof.Tests

open Sys2Proof.Machine

/-! Helpers. -/

/-- A segment register with an expand-up limit. -/
def segment (selector : BitVec 16) (base : Word) (limit : BitVec 32) (writable : Bool) : SegReg :=
  { selector := selector, base := base, limit := limit, writable := writable, expandDown := false, big := false }

/-- The reset state with 16 registers, in a mode. -/
def machine (mode : Mode) (csD : CodeSize) (pc : Word) (segs : SegFile) (regs : Vector Word 16) : State :=
  { State.reset with mode := mode, csD := csD, pc := pc, segs := segs, regs := regs }

/-- Flat segments for 64-bit mode; FS and GS with the bases of section 2.4. -/
def flatSegs : SegFile :=
  { es := segment 0 0 0 true, cs := segment 0x33 0 0 false, ss := segment 0x2B 0 0 true, ds := segment 0 0 0 true,
    fs := segment 0 0x10000000 0 true, gs := segment 0 0x20000000 0 true }

/-- Section 2.4. -/
def long64 : State :=
  machine .long64 .size16 0x400000 flatSegs
    #v[0x1000, 0x10, 0x2000, 0x3000, 0x7FFFFFFFE000, 0x7FFFFFFFD000, 0x100004000, 0x5000,
      0x8000, 0x9, 0x500000000, 0xB, 0xC000, 0xD000, 0xE000, 0xF]

/-- Section 2.5: FS NULL, GS and CS not writable. -/
def protSegs : SegFile :=
  { es := segment 0x10 0x30000 0xFFF true, cs := segment 0x8 0 0xFFFFFFFF false, ss := segment 0x18 0x20000 0xFFFF true,
    ds := segment 0x20 0x10000 0xFFFFF true, fs := segment 0 0 0xFFFFFFFF true, gs := segment 0x28 0x40000 0xFFFFFFFF false }

/-- Section 2.5. -/
def prot32 : State :=
  machine .prot .size32 0x500000 protSegs
    #v[0x1000, 0x10, 0x2000, 0x3000, 0x8000, 0x7000, 0x4000, 0x5000, 0, 0, 0, 0, 0, 0, 0, 0]

/-- Section 2.6: bases are selectors times 16, limits FFFFH. -/
def realSegs : SegFile :=
  { es := segment 0xB800 0xB8000 0xFFFF true, cs := segment 0 0 0xFFFF true, ss := segment 0x2000 0x20000 0xFFFF true,
    ds := segment 0x1000 0x10000 0xFFFF true, fs := segment 0x3000 0x30000 0xFFFF true,
    gs := segment 0x4000 0x40000 0xFFFF true }

/-- Section 2.6. -/
def real16 : State :=
  machine .real .size16 0x7C00 realSegs
    #v[0x12345, 0, 0, 0x100, 0, 0xFFFE, 0x20, 0x3, 0, 0, 0, 0, 0, 0, 0, 0]

/-- The state with register `i` set to `v`. -/
def withReg (s : State) (i : BitVec 4) (v : Word) : State := s.setReg i v

/-- The state with status flags CF, PF, ZF, SF, OF (10_state.md R16). -/
def withFlags (s : State) (cf pf zf sf of : Bool) : State :=
  { s with rflags := 2 ||| (if cf then 1 else 0) ||| (if pf then 4 else 0) ||| (if zf then 0x40 else 0)
      ||| (if sf then 0x80 else 0) ||| (if of then 0x800 else 0) }

/-- `Translate` answers a page fault for a write to `a`, and for nothing else. -/
def withPageFault (s : State) (a : Word) (code : BitVec 32) : State :=
  { s with paging := true, cfg := { s.cfg with translations :=
      [{ linear := a, write := true, user := true, result := .pageFault code },
       { linear := a, write := true, user := false, result := .pageFault code }] } }

/-- One step on the bytes as the program text at `pc`. -/
def stepOn (s : State) (bs : List Byte) : Result := step (s.withProgram bs)

/-- The next state of an outcome. -/
def nextOf : Result → Option State
  | .next t => some t
  | _ => none

/-- The fault of an outcome. -/
def faultOf : Result → Option Fault
  | .fault x => some x
  | _ => none

/-- The refusal of an outcome. -/
def refusalOf : Result → Option Refusal
  | .refused r => some r
  | _ => none

/-- Register `i` after an outcome. -/
def regOf (r : Result) (i : BitVec 4) : Option Word := (nextOf r).map fun t => t.reg i

/-- The byte at a physical address after an outcome. -/
def byteOf (r : Result) (p : Word) : Option Byte := (nextOf r).bind fun t => t.readByte p

/-- The decoded instruction, if all the bytes are one. -/
def decoded (c : Ctx) (bs : List Byte) : Option Instr :=
  match decode c bs with
  | .ok (i, []) => some i
  | _ => none

/-- The verdict of the decoder that is a refusal. -/
def undecoded (c : Ctx) (bs : List Byte) : Option DecodeRefusal :=
  match decode c bs with
  | .ok _ => none
  | .error e => some e

/-- The segment, linear address and length of the memory operand the bytes encode. -/
def operandAt (s : State) (bs : List Byte) : Option (SegName × Word × Nat) :=
  match decoded s.ctx bs with
  | none => none
  | some i =>
    match destination s i.rex i.form with
    | .mem n ea => some (n, s.linear n ea, i.length)
    | .reg _ => none

/-- The byte register the bytes encode. -/
def byteRegisterAt (s : State) (bs : List Byte) : Option Reg8 :=
  match decoded s.ctx bs with
  | none => none
  | some i =>
    match destination s i.rex i.form with
    | .mem _ _ => none
    | .reg k => some k

/-- 64-bit mode. -/
def ctx64 : Ctx := { mode := .long64, csD := .size16 }

/-- The form with destination AL (ModR/M C0H). -/
def al : Form := { prefixes := [], reg := 0, rm := .reg 0 }

/-- REX with all four bits 0 (40H). -/
def rex0 : Rex := { w := false, r := false, x := false, b := false }

/-- AL after the instruction on the four flag settings F1 to F4 of section 2.2, with RAX all ones before. -/
def onFourSettings (i : Instr) : List (Option Word) :=
  let s := withReg long64 0 0xFFFFFFFFFFFFFFFF
  [withFlags s true false false true false, withFlags s false true true false false,
    withFlags s false false false false false, withFlags s false false false false true].map fun u => regOf (exec i u) 0

/-- RAX with AL = 01H, or 00H, over all ones. -/
def expectFour (f1 f2 f3 f4 : Bool) : List (Option Word) :=
  [f1, f2, f3, f4].map fun b => some (if b then 0xFFFFFFFFFFFFFF01 else 0xFFFFFFFFFFFFFF00)

/-! Decoding of each mnemonic, without and with REX, from words written out by 30_encoding.md R52 (ModR/M C3H, REX 41H:
BL and R11B). A synonym's word decodes to the first mnemonic of its opcode (R53). -/

theorem test_decode_seta :
    decoded ctx64 [0x0F, 0x97, 0xC3] = some (.seta ⟨[], 0, .reg 3⟩) ∧
      decoded ctx64 [0x41, 0x0F, 0x97, 0xC3] = some (.setaRex ⟨false, false, false, true⟩ ⟨[], 0, .reg 3⟩) := by
  decide
theorem test_decode_setae :
    decoded ctx64 [0x0F, 0x93, 0xC3] = some (.setae ⟨[], 0, .reg 3⟩) ∧
      decoded ctx64 [0x41, 0x0F, 0x93, 0xC3] = some (.setaeRex ⟨false, false, false, true⟩ ⟨[], 0, .reg 3⟩) := by
  decide
theorem test_decode_setb :
    decoded ctx64 [0x0F, 0x92, 0xC3] = some (.setb ⟨[], 0, .reg 3⟩) ∧
      decoded ctx64 [0x41, 0x0F, 0x92, 0xC3] = some (.setbRex ⟨false, false, false, true⟩ ⟨[], 0, .reg 3⟩) := by
  decide
theorem test_decode_setbe :
    decoded ctx64 [0x0F, 0x96, 0xC3] = some (.setbe ⟨[], 0, .reg 3⟩) ∧
      decoded ctx64 [0x41, 0x0F, 0x96, 0xC3] = some (.setbeRex ⟨false, false, false, true⟩ ⟨[], 0, .reg 3⟩) := by
  decide
theorem test_decode_setc :
    decoded ctx64 [0x0F, 0x92, 0xC3] = some (.setb ⟨[], 0, .reg 3⟩) ∧
      decoded ctx64 [0x41, 0x0F, 0x92, 0xC3] = some (.setbRex ⟨false, false, false, true⟩ ⟨[], 0, .reg 3⟩) := by
  decide
theorem test_decode_sete :
    decoded ctx64 [0x0F, 0x94, 0xC3] = some (.sete ⟨[], 0, .reg 3⟩) ∧
      decoded ctx64 [0x41, 0x0F, 0x94, 0xC3] = some (.seteRex ⟨false, false, false, true⟩ ⟨[], 0, .reg 3⟩) := by
  decide
theorem test_decode_setg :
    decoded ctx64 [0x0F, 0x9F, 0xC3] = some (.setg ⟨[], 0, .reg 3⟩) ∧
      decoded ctx64 [0x41, 0x0F, 0x9F, 0xC3] = some (.setgRex ⟨false, false, false, true⟩ ⟨[], 0, .reg 3⟩) := by
  decide
theorem test_decode_setge :
    decoded ctx64 [0x0F, 0x9D, 0xC3] = some (.setge ⟨[], 0, .reg 3⟩) ∧
      decoded ctx64 [0x41, 0x0F, 0x9D, 0xC3] = some (.setgeRex ⟨false, false, false, true⟩ ⟨[], 0, .reg 3⟩) := by
  decide
theorem test_decode_setl :
    decoded ctx64 [0x0F, 0x9C, 0xC3] = some (.setl ⟨[], 0, .reg 3⟩) ∧
      decoded ctx64 [0x41, 0x0F, 0x9C, 0xC3] = some (.setlRex ⟨false, false, false, true⟩ ⟨[], 0, .reg 3⟩) := by
  decide
theorem test_decode_setle :
    decoded ctx64 [0x0F, 0x9E, 0xC3] = some (.setle ⟨[], 0, .reg 3⟩) ∧
      decoded ctx64 [0x41, 0x0F, 0x9E, 0xC3] = some (.setleRex ⟨false, false, false, true⟩ ⟨[], 0, .reg 3⟩) := by
  decide
theorem test_decode_setna :
    decoded ctx64 [0x0F, 0x96, 0xC3] = some (.setbe ⟨[], 0, .reg 3⟩) ∧
      decoded ctx64 [0x41, 0x0F, 0x96, 0xC3] = some (.setbeRex ⟨false, false, false, true⟩ ⟨[], 0, .reg 3⟩) := by
  decide
theorem test_decode_setnae :
    decoded ctx64 [0x0F, 0x92, 0xC3] = some (.setb ⟨[], 0, .reg 3⟩) ∧
      decoded ctx64 [0x41, 0x0F, 0x92, 0xC3] = some (.setbRex ⟨false, false, false, true⟩ ⟨[], 0, .reg 3⟩) := by
  decide
theorem test_decode_setnb :
    decoded ctx64 [0x0F, 0x93, 0xC3] = some (.setae ⟨[], 0, .reg 3⟩) ∧
      decoded ctx64 [0x41, 0x0F, 0x93, 0xC3] = some (.setaeRex ⟨false, false, false, true⟩ ⟨[], 0, .reg 3⟩) := by
  decide
theorem test_decode_setnbe :
    decoded ctx64 [0x0F, 0x97, 0xC3] = some (.seta ⟨[], 0, .reg 3⟩) ∧
      decoded ctx64 [0x41, 0x0F, 0x97, 0xC3] = some (.setaRex ⟨false, false, false, true⟩ ⟨[], 0, .reg 3⟩) := by
  decide
theorem test_decode_setnc :
    decoded ctx64 [0x0F, 0x93, 0xC3] = some (.setae ⟨[], 0, .reg 3⟩) ∧
      decoded ctx64 [0x41, 0x0F, 0x93, 0xC3] = some (.setaeRex ⟨false, false, false, true⟩ ⟨[], 0, .reg 3⟩) := by
  decide
theorem test_decode_setne :
    decoded ctx64 [0x0F, 0x95, 0xC3] = some (.setne ⟨[], 0, .reg 3⟩) ∧
      decoded ctx64 [0x41, 0x0F, 0x95, 0xC3] = some (.setneRex ⟨false, false, false, true⟩ ⟨[], 0, .reg 3⟩) := by
  decide
theorem test_decode_setng :
    decoded ctx64 [0x0F, 0x9E, 0xC3] = some (.setle ⟨[], 0, .reg 3⟩) ∧
      decoded ctx64 [0x41, 0x0F, 0x9E, 0xC3] = some (.setleRex ⟨false, false, false, true⟩ ⟨[], 0, .reg 3⟩) := by
  decide
theorem test_decode_setnge :
    decoded ctx64 [0x0F, 0x9C, 0xC3] = some (.setl ⟨[], 0, .reg 3⟩) ∧
      decoded ctx64 [0x41, 0x0F, 0x9C, 0xC3] = some (.setlRex ⟨false, false, false, true⟩ ⟨[], 0, .reg 3⟩) := by
  decide
theorem test_decode_setnl :
    decoded ctx64 [0x0F, 0x9D, 0xC3] = some (.setge ⟨[], 0, .reg 3⟩) ∧
      decoded ctx64 [0x41, 0x0F, 0x9D, 0xC3] = some (.setgeRex ⟨false, false, false, true⟩ ⟨[], 0, .reg 3⟩) := by
  decide
theorem test_decode_setnle :
    decoded ctx64 [0x0F, 0x9F, 0xC3] = some (.setg ⟨[], 0, .reg 3⟩) ∧
      decoded ctx64 [0x41, 0x0F, 0x9F, 0xC3] = some (.setgRex ⟨false, false, false, true⟩ ⟨[], 0, .reg 3⟩) := by
  decide
theorem test_decode_setno :
    decoded ctx64 [0x0F, 0x91, 0xC3] = some (.setno ⟨[], 0, .reg 3⟩) ∧
      decoded ctx64 [0x41, 0x0F, 0x91, 0xC3] = some (.setnoRex ⟨false, false, false, true⟩ ⟨[], 0, .reg 3⟩) := by
  decide
theorem test_decode_setnp :
    decoded ctx64 [0x0F, 0x9B, 0xC3] = some (.setnp ⟨[], 0, .reg 3⟩) ∧
      decoded ctx64 [0x41, 0x0F, 0x9B, 0xC3] = some (.setnpRex ⟨false, false, false, true⟩ ⟨[], 0, .reg 3⟩) := by
  decide
theorem test_decode_setns :
    decoded ctx64 [0x0F, 0x99, 0xC3] = some (.setns ⟨[], 0, .reg 3⟩) ∧
      decoded ctx64 [0x41, 0x0F, 0x99, 0xC3] = some (.setnsRex ⟨false, false, false, true⟩ ⟨[], 0, .reg 3⟩) := by
  decide
theorem test_decode_setnz :
    decoded ctx64 [0x0F, 0x95, 0xC3] = some (.setne ⟨[], 0, .reg 3⟩) ∧
      decoded ctx64 [0x41, 0x0F, 0x95, 0xC3] = some (.setneRex ⟨false, false, false, true⟩ ⟨[], 0, .reg 3⟩) := by
  decide
theorem test_decode_seto :
    decoded ctx64 [0x0F, 0x90, 0xC3] = some (.seto ⟨[], 0, .reg 3⟩) ∧
      decoded ctx64 [0x41, 0x0F, 0x90, 0xC3] = some (.setoRex ⟨false, false, false, true⟩ ⟨[], 0, .reg 3⟩) := by
  decide
theorem test_decode_setp :
    decoded ctx64 [0x0F, 0x9A, 0xC3] = some (.setp ⟨[], 0, .reg 3⟩) ∧
      decoded ctx64 [0x41, 0x0F, 0x9A, 0xC3] = some (.setpRex ⟨false, false, false, true⟩ ⟨[], 0, .reg 3⟩) := by
  decide
theorem test_decode_setpe :
    decoded ctx64 [0x0F, 0x9A, 0xC3] = some (.setp ⟨[], 0, .reg 3⟩) ∧
      decoded ctx64 [0x41, 0x0F, 0x9A, 0xC3] = some (.setpRex ⟨false, false, false, true⟩ ⟨[], 0, .reg 3⟩) := by
  decide
theorem test_decode_setpo :
    decoded ctx64 [0x0F, 0x9B, 0xC3] = some (.setnp ⟨[], 0, .reg 3⟩) ∧
      decoded ctx64 [0x41, 0x0F, 0x9B, 0xC3] = some (.setnpRex ⟨false, false, false, true⟩ ⟨[], 0, .reg 3⟩) := by
  decide
theorem test_decode_sets :
    decoded ctx64 [0x0F, 0x98, 0xC3] = some (.sets ⟨[], 0, .reg 3⟩) ∧
      decoded ctx64 [0x41, 0x0F, 0x98, 0xC3] = some (.setsRex ⟨false, false, false, true⟩ ⟨[], 0, .reg 3⟩) := by
  decide
theorem test_decode_setz :
    decoded ctx64 [0x0F, 0x94, 0xC3] = some (.sete ⟨[], 0, .reg 3⟩) ∧
      decoded ctx64 [0x41, 0x0F, 0x94, 0xC3] = some (.seteRex ⟨false, false, false, true⟩ ⟨[], 0, .reg 3⟩) := by
  decide

/-! Vectors V1 to V30: every mnemonic, without and with REX, on four flag settings. -/

theorem test_exec_seta :
    onFourSettings (.seta al) = expectFour false false true true ∧
      onFourSettings (.setaRex rex0 al) = expectFour false false true true := by
  decide
theorem test_exec_setae :
    onFourSettings (.setae al) = expectFour false true true true ∧
      onFourSettings (.setaeRex rex0 al) = expectFour false true true true := by
  decide
theorem test_exec_setb :
    onFourSettings (.setb al) = expectFour true false false false ∧
      onFourSettings (.setbRex rex0 al) = expectFour true false false false := by
  decide
theorem test_exec_setbe :
    onFourSettings (.setbe al) = expectFour true true false false ∧
      onFourSettings (.setbeRex rex0 al) = expectFour true true false false := by
  decide
theorem test_exec_setc :
    onFourSettings (.setc al) = expectFour true false false false ∧
      onFourSettings (.setcRex rex0 al) = expectFour true false false false := by
  decide
theorem test_exec_sete :
    onFourSettings (.sete al) = expectFour false true false false ∧
      onFourSettings (.seteRex rex0 al) = expectFour false true false false := by
  decide
theorem test_exec_setg :
    onFourSettings (.setg al) = expectFour false false true false ∧
      onFourSettings (.setgRex rex0 al) = expectFour false false true false := by
  decide
theorem test_exec_setge :
    onFourSettings (.setge al) = expectFour false true true false ∧
      onFourSettings (.setgeRex rex0 al) = expectFour false true true false := by
  decide
theorem test_exec_setl :
    onFourSettings (.setl al) = expectFour true false false true ∧
      onFourSettings (.setlRex rex0 al) = expectFour true false false true := by
  decide
theorem test_exec_setle :
    onFourSettings (.setle al) = expectFour true true false true ∧
      onFourSettings (.setleRex rex0 al) = expectFour true true false true := by
  decide
theorem test_exec_setna :
    onFourSettings (.setna al) = expectFour true true false false ∧
      onFourSettings (.setnaRex rex0 al) = expectFour true true false false := by
  decide
theorem test_exec_setnae :
    onFourSettings (.setnae al) = expectFour true false false false ∧
      onFourSettings (.setnaeRex rex0 al) = expectFour true false false false := by
  decide
theorem test_exec_setnb :
    onFourSettings (.setnb al) = expectFour false true true true ∧
      onFourSettings (.setnbRex rex0 al) = expectFour false true true true := by
  decide
theorem test_exec_setnbe :
    onFourSettings (.setnbe al) = expectFour false false true true ∧
      onFourSettings (.setnbeRex rex0 al) = expectFour false false true true := by
  decide
theorem test_exec_setnc :
    onFourSettings (.setnc al) = expectFour false true true true ∧
      onFourSettings (.setncRex rex0 al) = expectFour false true true true := by
  decide
theorem test_exec_setne :
    onFourSettings (.setne al) = expectFour true false true true ∧
      onFourSettings (.setneRex rex0 al) = expectFour true false true true := by
  decide
theorem test_exec_setng :
    onFourSettings (.setng al) = expectFour true true false true ∧
      onFourSettings (.setngRex rex0 al) = expectFour true true false true := by
  decide
theorem test_exec_setnge :
    onFourSettings (.setnge al) = expectFour true false false true ∧
      onFourSettings (.setngeRex rex0 al) = expectFour true false false true := by
  decide
theorem test_exec_setnl :
    onFourSettings (.setnl al) = expectFour false true true false ∧
      onFourSettings (.setnlRex rex0 al) = expectFour false true true false := by
  decide
theorem test_exec_setnle :
    onFourSettings (.setnle al) = expectFour false false true false ∧
      onFourSettings (.setnleRex rex0 al) = expectFour false false true false := by
  decide
theorem test_exec_setno :
    onFourSettings (.setno al) = expectFour true true true false ∧
      onFourSettings (.setnoRex rex0 al) = expectFour true true true false := by
  decide
theorem test_exec_setnp :
    onFourSettings (.setnp al) = expectFour true false true true ∧
      onFourSettings (.setnpRex rex0 al) = expectFour true false true true := by
  decide
theorem test_exec_setns :
    onFourSettings (.setns al) = expectFour false true true true ∧
      onFourSettings (.setnsRex rex0 al) = expectFour false true true true := by
  decide
theorem test_exec_setnz :
    onFourSettings (.setnz al) = expectFour true false true true ∧
      onFourSettings (.setnzRex rex0 al) = expectFour true false true true := by
  decide
theorem test_exec_seto :
    onFourSettings (.seto al) = expectFour false false false true ∧
      onFourSettings (.setoRex rex0 al) = expectFour false false false true := by
  decide
theorem test_exec_setp :
    onFourSettings (.setp al) = expectFour false true false false ∧
      onFourSettings (.setpRex rex0 al) = expectFour false true false false := by
  decide
theorem test_exec_setpe :
    onFourSettings (.setpe al) = expectFour false true false false ∧
      onFourSettings (.setpeRex rex0 al) = expectFour false true false false := by
  decide
theorem test_exec_setpo :
    onFourSettings (.setpo al) = expectFour true false true true ∧
      onFourSettings (.setpoRex rex0 al) = expectFour true false true true := by
  decide
theorem test_exec_sets :
    onFourSettings (.sets al) = expectFour true false false false ∧
      onFourSettings (.setsRex rex0 al) = expectFour true false false false := by
  decide
theorem test_exec_setz :
    onFourSettings (.setz al) = expectFour false true false false ∧
      onFourSettings (.setzRex rex0 al) = expectFour false true false false := by
  decide

/-! Section 2.4: 64-bit addressing (V97 apart). -/

theorem test_operand64_V59_V71 :
    [[0x0F, 0x94, 0x00],
      [0x0F, 0x94, 0x03],
      [0x0F, 0x94, 0x38],
      [0x0F, 0x94, 0x45, 0x00],
      [0x0F, 0x94, 0x04, 0x24],
      [0x0F, 0x94, 0x44, 0x24, 0x08],
      [0x0F, 0x94, 0x40, 0xFF],
      [0x0F, 0x94, 0x80, 0x00, 0x01, 0x00, 0x00],
      [0x0F, 0x94, 0x80, 0xFF, 0xFF, 0xFF, 0xFF],
      [0x0F, 0x94, 0x04, 0x08],
      [0x0F, 0x94, 0x04, 0xC8],
      [0x0F, 0x94, 0x84, 0x8B, 0x00, 0x01, 0x00, 0x00],
      [0x0F, 0x94, 0x04, 0x25, 0x00, 0x10, 0x00, 0x00]].map (operandAt long64) =
    [some (.ds, 0x0000000000001000, 3),
      some (.ds, 0x0000000000003000, 3),
      some (.ds, 0x0000000000001000, 3),
      some (.ss, 0x00007FFFFFFFD000, 4),
      some (.ss, 0x00007FFFFFFFE000, 4),
      some (.ss, 0x00007FFFFFFFE008, 5),
      some (.ds, 0x0000000000000FFF, 4),
      some (.ds, 0x0000000000001100, 7),
      some (.ds, 0x0000000000000FFF, 7),
      some (.ds, 0x0000000000001010, 4),
      some (.ds, 0x0000000000001080, 4),
      some (.ds, 0x0000000000003140, 8),
      some (.ds, 0x0000000000001000, 8)] := by
  decide

theorem test_operand64_V72_V84 :
    [[0x0F, 0x94, 0x04, 0x25, 0x00, 0x00, 0x00, 0x80],
      [0x0F, 0x94, 0x04, 0x8D, 0x00, 0x20, 0x00, 0x00],
      [0x0F, 0x94, 0x04, 0x28],
      [0x0F, 0x94, 0x44, 0x05, 0x00],
      [0x0F, 0x94, 0x04, 0x20],
      [0x0F, 0x94, 0x05, 0x10, 0x00, 0x00, 0x00],
      [0x0F, 0x94, 0x05, 0x00, 0xF0, 0xFF, 0xFF],
      [0x41, 0x0F, 0x94, 0x00],
      [0x41, 0x0F, 0x94, 0x04, 0x24],
      [0x41, 0x0F, 0x94, 0x45, 0x00],
      [0x41, 0x0F, 0x94, 0x44, 0x24, 0x10],
      [0x42, 0x0F, 0x94, 0x04, 0x08],
      [0x42, 0x0F, 0x94, 0x04, 0x20]].map (operandAt long64) =
    [some (.ds, 0xFFFFFFFF80000000, 8),
      some (.ds, 0x0000000000002040, 8),
      some (.ds, 0x00007FFFFFFFE000, 4),
      some (.ss, 0x00007FFFFFFFE000, 5),
      some (.ds, 0x0000000000001000, 4),
      some (.ds, 0x0000000000400017, 7),
      some (.ds, 0x00000000003FF007, 7),
      some (.ds, 0x0000000000008000, 4),
      some (.ds, 0x000000000000C000, 5),
      some (.ds, 0x000000000000D000, 5),
      some (.ds, 0x000000000000C010, 6),
      some (.ds, 0x0000000000001009, 5),
      some (.ds, 0x000000000000D000, 5)] := by
  decide

theorem test_operand64_V85_V97 :
    [[0x43, 0x0F, 0x94, 0x04, 0xFE],
      [0x4F, 0x0F, 0x94, 0x04, 0xFE],
      [0x41, 0x0F, 0x94, 0x05, 0x10, 0x00, 0x00, 0x00],
      [0x41, 0x0F, 0x94, 0x04, 0x25, 0x00, 0x10, 0x00, 0x00],
      [0x64, 0x0F, 0x94, 0x00],
      [0x65, 0x0F, 0x94, 0x04, 0x25, 0x28, 0x00, 0x00, 0x00],
      [0x64, 0x0F, 0x94, 0x45, 0x00],
      [0x0F, 0x94, 0x06],
      [0x67, 0x0F, 0x94, 0x06],
      [0x67, 0x41, 0x0F, 0x94, 0x42, 0xFF],
      [0x67, 0x0F, 0x94, 0x05, 0x10, 0x00, 0x00, 0x00],
      [0x67, 0x0F, 0x94, 0x04, 0x25, 0x00, 0x00, 0x00, 0x80]].map (operandAt long64) =
    [some (.ds, 0x000000000000E078, 5),
      some (.ds, 0x000000000000E078, 5),
      some (.ds, 0x0000000000400018, 8),
      some (.ds, 0x0000000000001000, 9),
      some (.fs, 0x0000000010001000, 4),
      some (.gs, 0x0000000020000028, 9),
      some (.fs, 0x000080000FFFD000, 5),
      some (.ds, 0x0000000100004000, 3),
      some (.ds, 0x0000000000004000, 4),
      some (.ds, 0x00000000FFFFFFFF, 6),
      some (.ds, 0x0000000000400018, 8),
      some (.ds, 0x0000000080000000, 9)] := by
  decide

/-- V97: the effective address wraps to the top of the address space. -/
theorem test_operand64_wraps :
    operandAt (withReg long64 0 0) [0x0F, 0x94, 0x40, 0xFF] = some (.ds, 0xFFFFFFFFFFFFFFFF, 4) := by
  decide

/-! Section 2.5: 32-bit addressing outside 64-bit mode. -/

theorem test_operand32_V98_V107 :
    [[0x0F, 0x94, 0x00],
      [0x0F, 0x94, 0x05, 0x00, 0x20, 0x00, 0x00],
      [0x0F, 0x94, 0x45, 0x08],
      [0x0F, 0x94, 0x04, 0x24],
      [0x0F, 0x94, 0x44, 0x8B, 0x04],
      [0x36, 0x0F, 0x94, 0x00],
      [0x3E, 0x0F, 0x94, 0x45, 0x00],
      [0x26, 0x0F, 0x94, 0x41, 0xF0],
      [0x67, 0x0F, 0x94, 0x00],
      [0x67, 0x0F, 0x94, 0x46, 0x02]].map (operandAt prot32) =
    [some (.ds, 0x00011000, 3),
      some (.ds, 0x00012000, 7),
      some (.ss, 0x00027008, 4),
      some (.ss, 0x00028000, 4),
      some (.ds, 0x00013044, 5),
      some (.ss, 0x00021000, 4),
      some (.ds, 0x00017000, 5),
      some (.es, 0x00030000, 5),
      some (.ds, 0x00017000, 4),
      some (.ss, 0x00027002, 5)] := by
  decide

/-- Section 2.5, last lines: with `csD` = 16 the roles of the two address sizes swap. -/
theorem test_operand_csD16 :
    [[0x0F, 0x94, 0x00], [0x67, 0x0F, 0x94, 0x00]].map (operandAt { prot32 with csD := .size16 }) =
      [some (.ds, 0x17000, 3), some (.ds, 0x11000, 4)] := by
  decide

/-! Section 2.6: 16-bit addressing (V125 apart). -/

theorem test_operand16_V108_V116 :
    [[0x0F, 0x94, 0x00],
      [0x0F, 0x94, 0x01],
      [0x0F, 0x94, 0x02],
      [0x0F, 0x94, 0x03],
      [0x0F, 0x94, 0x04],
      [0x0F, 0x94, 0x05],
      [0x0F, 0x94, 0x06, 0x34, 0x12],
      [0x0F, 0x94, 0x07],
      [0x0F, 0x94, 0x46, 0x02]].map (operandAt real16) =
    [some (.ds, 0x00010120, 3),
      some (.ds, 0x00010103, 3),
      some (.ss, 0x0002001E, 3),
      some (.ss, 0x00020001, 3),
      some (.ds, 0x00010020, 3),
      some (.ds, 0x00010003, 3),
      some (.ds, 0x00011234, 5),
      some (.ds, 0x00010100, 3),
      some (.ss, 0x00020000, 4)] := by
  decide

theorem test_operand16_V117_V125 :
    [[0x0F, 0x94, 0x46, 0x00],
      [0x0F, 0x94, 0x47, 0x80],
      [0x0F, 0x94, 0x87, 0x00, 0xFF],
      [0x0F, 0x94, 0x82, 0x00, 0x10],
      [0x26, 0x0F, 0x94, 0x07],
      [0x2E, 0x0F, 0x94, 0x07],
      [0x36, 0x0F, 0x94, 0x07],
      [0x65, 0x0F, 0x94, 0x07]].map (operandAt real16) =
    [some (.ss, 0x0002FFFE, 4),
      some (.ds, 0x00010080, 4),
      some (.ds, 0x00010000, 5),
      some (.ss, 0x0002101E, 5),
      some (.es, 0x000B8100, 4),
      some (.cs, 0x00000100, 4),
      some (.ss, 0x00020100, 4),
      some (.gs, 0x00040100, 4)] := by
  decide

/-- V125: 32-bit addressing in real-address mode. -/
theorem test_operand16_a32 :
    operandAt (withReg real16 0 0x1234) [0x67, 0x0F, 0x94, 0x00] = some (.ds, 0x11234, 4) := by
  decide

/-! Section 2.3: byte registers. -/

/-- V31 to V38: without REX, with REX 40H, with REX 41H. -/
theorem test_byte_registers :
    [0xC0, 0xC1, 0xC2, 0xC3, 0xC4, 0xC5, 0xC6, 0xC7].map
        (fun m => [[0x0F, 0x94, m], [0x40, 0x0F, 0x94, m], [0x41, 0x0F, 0x94, m]].map (byteRegisterAt long64)) =
      [[some (.low 0), some (.low 0), some (.low 8)], [some (.low 1), some (.low 1), some (.low 9)],
        [some (.low 2), some (.low 2), some (.low 10)], [some (.low 3), some (.low 3), some (.low 11)],
        [some (.high 0), some (.low 4), some (.low 12)], [some (.high 1), some (.low 5), some (.low 13)],
        [some (.high 2), some (.low 6), some (.low 14)], [some (.high 3), some (.low 7), some (.low 15)]] := by
  decide

/-- V39, V39b, V40 to V48: REX.W, R, X and the `reg` field change nothing. -/
theorem test_ignored_bits :
    [[0x4E, 0x0F, 0x94, 0xC1], [0x4F, 0x0F, 0x94, 0xC1], [0x0F, 0x94, 0xC8], [0x0F, 0x94, 0xD0], [0x0F, 0x94, 0xD8],
        [0x0F, 0x94, 0xE0], [0x0F, 0x94, 0xE8], [0x0F, 0x94, 0xF0], [0x0F, 0x94, 0xF8], [0x44, 0x0F, 0x94, 0xC0]].map
          (byteRegisterAt long64) =
      [some (.low 1), some (.low 9), some (.low 0), some (.low 0), some (.low 0), some (.low 0), some (.low 0),
        some (.low 0), some (.low 0), some (.low 0)] := by
  decide

/-- V49 to V58: the rest of the register is preserved. -/
theorem test_register_writes :
    [regOf (stepOn (withFlags (withReg long64 0 0x1122334455667788) false false true false false) [0x0F, 0x94, 0xC0]) 0,
      regOf (stepOn (withFlags (withReg long64 0 0x1122334455667788) false false true false false) [0x0F, 0x94, 0xC4]) 0,
      regOf (stepOn (withFlags (withReg long64 1 0xFFFFFFFFFFFFFFFF) false false true false false) [0x0F, 0x94, 0xC1]) 1,
      regOf (stepOn (withFlags (withReg long64 2 0x00000000AABBCCDD) false false true false false) [0x0F, 0x94, 0xC6]) 2,
      regOf (stepOn (withFlags (withReg long64 3 0x8000000000000000) false false true false false) [0x0F, 0x94, 0xC3]) 3,
      regOf (stepOn (withFlags (withReg long64 4 0x00007FFFFFFFE0F0) false false true false false) [0x40, 0x0F, 0x94, 0xC4]) 4,
      regOf (stepOn (withFlags (withReg long64 6 0xFFFFFFFFFFFFFFFF) false false true false false) [0x40, 0x0F, 0x94, 0xC6]) 6,
      regOf (stepOn (withFlags (withReg long64 8 0x0123456789ABCDEF) false false true false false) [0x41, 0x0F, 0x94, 0xC0]) 8,
      regOf (stepOn (withFlags (withReg long64 15 0x0123456789ABCDEF) false false true false false) [0x41, 0x0F, 0x94, 0xC7]) 15,
      regOf (stepOn (withFlags (withReg long64 3 0x8000000000000000) false false false false false) [0x0F, 0x94, 0xC7]) 3] =
    [some 0x1122334455667701, some 0x1122334455660188, some 0xFFFFFFFFFFFFFF01, some 0x00000000AABB01DD, some 0x8000000000000001, some 0x00007FFFFFFFE001, some 0xFFFFFFFFFFFFFF01, some 0x0123456789ABCD01, some 0x0123456789ABCD01, some 0x8000000000000000] := by
  decide

/-! Section 2.7: stores. -/

/-- Bytes 0FFFH to 1001H = AA BB CC. -/
def beforeStore (s : State) : State := ((s.writeByte 0xFFF 0xAA).writeByte 0x1000 0xBB).writeByte 0x1001 0xCC

/-- Bytes 0FFFH to 1001H and `pc` after an outcome. -/
def storeView (r : Result) : List (Option Byte) × Option Word :=
  ([byteOf r 0xFFF, byteOf r 0x1000, byteOf r 0x1001], (nextOf r).map fun t => t.pc)

/-- V126 to V130. -/
theorem test_stores_one_byte :
    [storeView (stepOn (withFlags (beforeStore long64) false false true false false) [0x0F, 0x94, 0x00]),
      storeView (stepOn (withFlags (beforeStore long64) false false false false false) [0x0F, 0x94, 0x00]),
      storeView (stepOn (withFlags (beforeStore long64) false false false false false) [0x0F, 0x95, 0x00]),
      storeView (stepOn (withFlags (beforeStore long64) false false false true false) [0x0F, 0x9C, 0x40, 0x01]),
      storeView (stepOn (withFlags (beforeStore long64) false false false true true) [0x0F, 0x9D, 0x40, 0xFF])] =
    [([some 0xAA, some 0x01, some 0xCC], some 0x400003), ([some 0xAA, some 0x00, some 0xCC], some 0x400003),
      ([some 0xAA, some 0x01, some 0xCC], some 0x400003), ([some 0xAA, some 0xBB, some 0x01], some 0x400004),
      ([some 0x01, some 0xBB, some 0xCC], some 0x400004)] := by
  decide

/-! Section 2.8: exceptions. -/

/-- Virtual-8086 mode with the state of section 2.6. -/
def v86 : State := { real16 with mode := .v86 }

/-- Compatibility mode with the state of section 2.5. -/
def compat : State := { prot32 with mode := .compat }

/-- V131 to V137 and V149: a LOCK prefix raises #UD. -/
theorem test_lock :
    [stepOn long64 [0xF0, 0x0F, 0x94, 0xC0], stepOn long64 [0xF0, 0x0F, 0x94, 0x03],
      stepOn long64 [0xF0, 0x41, 0x0F, 0x94, 0xC0], stepOn prot32 [0xF0, 0x0F, 0x94, 0x00],
      stepOn real16 [0xF0, 0x0F, 0x94, 0x07], stepOn v86 [0xF0, 0x0F, 0x94, 0xC0], stepOn compat [0xF0, 0x0F, 0x94, 0xC0],
      stepOn (withReg long64 0 0x800000000000) [0xF0, 0x0F, 0x98, 0x00]].map faultOf =
    [some .ud, some .ud, some .ud, some .ud, some .ud, some .ud, some .ud, some .ud] := by
  decide

/-- VA_BITS = 57. -/
def with57 (s : State) : State := { s with cfg := { s.cfg with vaBits := .va57 } }

/-- FS with a base. -/
def withFsBase (s : State) (b : Word) : State := { s with segs := { s.segs with fs := segment 0 b 0 true } }

/-- V138, V142 to V148: canonical form and page faults in 64-bit mode. -/
theorem test_faults64 :
    [stepOn (withReg long64 0 0x800000000000) [0x0F, 0x98, 0x00],
      stepOn (withReg long64 0 0xFFFF7FFFFFFFFFFF) [0x0F, 0x98, 0x00],
      stepOn (withReg long64 5 0x800000000000) [0x0F, 0x98, 0x45, 0x00],
      stepOn (withReg long64 4 0x1234567800000000) [0x0F, 0x98, 0x04, 0x24], stepOn long64 [0x64, 0x0F, 0x98, 0x45, 0x00],
      stepOn (withFsBase long64 0x7FFFFFFFF000) [0x64, 0x0F, 0x98, 0x00],
      stepOn (withPageFault long64 0x1000 7) [0x0F, 0x98, 0x00],
      stepOn (withPageFault (withReg long64 0 0x800000000000) 0x800000000000 7) [0x0F, 0x98, 0x00]].map faultOf =
    [some (.gp (some 0)), some (.gp (some 0)), some (.ss (some 0)), some (.ss (some 0)), some (.gp (some 0)),
      some (.gp (some 0)), some (.pf 7 0x1000), some (.gp (some 0))] := by
  decide

/-- V139 to V141: no exception, byte 00H stored. -/
theorem test_canonical_edges :
    [byteOf (stepOn (with57 (withReg long64 0 0x800000000000)) [0x0F, 0x98, 0x00]) 0x800000000000,
      byteOf (stepOn (withReg long64 0 0x7FFFFFFFFFFF) [0x0F, 0x98, 0x00]) 0x7FFFFFFFFFFF,
      byteOf (stepOn (withReg long64 0 0xFFFF800000000000) [0x0F, 0x98, 0x00]) 0xFFFF800000000000] =
    [some 0, some 0, some 0] := by
  decide

/-- V150, V152, V154 to V156, V158, V159: protected mode. -/
theorem test_faults_prot :
    [stepOn prot32 [0x26, 0x0F, 0x94, 0x00], stepOn prot32 [0x64, 0x0F, 0x94, 0x00],
      stepOn prot32 [0x65, 0x0F, 0x94, 0x00], stepOn prot32 [0x2E, 0x0F, 0x94, 0x00],
      stepOn (withReg prot32 5 0xFFFF) [0x0F, 0x94, 0x45, 0x01], stepOn (withReg prot32 0 0) [0x0F, 0x94, 0x40, 0xFF],
      stepOn (withPageFault prot32 0x11000 2) [0x0F, 0x94, 0x00]].map faultOf =
    [some (.gp (some 0)), some (.gp (some 0)), some (.gp (some 0)), some (.gp (some 0)), some (.ss (some 0)),
      some (.gp (some 0)), some (.pf 2 0x11000)] := by
  decide

/-- ZF = 1. -/
def zf1 (s : State) : State := withFlags s false false true false false

/-- V151, V153, V157 and V165: no exception, byte 01H stored. -/
theorem test_inside_limits :
    [byteOf (stepOn (zf1 (withReg prot32 0 0xFFF)) [0x26, 0x0F, 0x94, 0x00]) 0x30FFF,
      byteOf (stepOn (zf1 prot32) [0x0F, 0x94, 0x00]) 0x11000,
      byteOf (stepOn (zf1 (withReg prot32 5 0xFFFF)) [0x0F, 0x94, 0x45, 0x00]) 0x2FFFF,
      byteOf (stepOn (zf1 real16) [0x0F, 0x94, 0x87, 0x00, 0xFF]) 0x10000] = [some 1, some 1, some 1, some 1] := by
  decide

/-- V160 to V164 and V166 to V168: compatibility, real-address and virtual-8086 mode. -/
theorem test_faults_other_modes :
    [stepOn compat [0x26, 0x0F, 0x94, 0x00], stepOn compat [0x64, 0x0F, 0x94, 0x00],
      stepOn (withReg compat 5 0xFFFF) [0x0F, 0x94, 0x45, 0x01], stepOn real16 [0x67, 0x0F, 0x94, 0x00],
      stepOn (withReg real16 5 0x12345) [0x67, 0x0F, 0x94, 0x45, 0x00], stepOn v86 [0x67, 0x0F, 0x94, 0x00],
      stepOn (withReg v86 5 0x12345) [0x67, 0x0F, 0x94, 0x45, 0x00],
      stepOn (withPageFault v86 0x10100 7) [0x0F, 0x94, 0x07]].map faultOf =
    [some (.gp (some 0)), some (.gp (some 0)), some (.ss (some 0)), some (.gp none), some (.ss none),
      some (.gp (some 0)), some (.ss (some 0)), some (.pf 7 0x10100)] := by
  decide

/-- The inverted limit of an expand-down SS (20_memory.md R41): `ea` = limit is outside, limit + 1 inside. -/
theorem test_expand_down :
    ((segment 0x18 0 0xFFF true).outsideLimit 0xFFF, ({ segment 0x18 0 0xFFF true with expandDown := true }).outsideLimit 0xFFF,
      ({ segment 0x18 0 0xFFF true with expandDown := true }).outsideLimit 0x1000,
      ({ segment 0x18 0 0xFFF true with expandDown := true }).outsideLimit 0x10000,
      ({ segment 0x18 0 0xFFF true with expandDown := true, big := true }).outsideLimit 0x10000) =
    (false, true, false, true, false) := by
  decide

/-! Section 2.9: refused forms. -/

/-- V169 to V179, V183, V184, V188. -/
theorem test_undecoded :
    [[0x66, 0x0F, 0x94, 0xC0], [0xF3, 0x0F, 0x94, 0xC0], [0xF2, 0x0F, 0x94, 0x00], [0x40, 0x40, 0x0F, 0x94, 0xC0],
      [0x40, 0x64, 0x0F, 0x94, 0x00], [0x3E, 0x0F, 0x94, 0x00], [0x36, 0x0F, 0x94, 0x00], [0x64, 0x65, 0x0F, 0x94, 0x00],
      [0x64, 0x0F, 0x94, 0xC0], [0xF0, 0xF0, 0x0F, 0x94, 0xC0], [0x67, 0x67, 0x0F, 0x94, 0x00],
      [0x0F, 0x84, 0x00, 0x00, 0x00, 0x00], [0x0F, 0xA0],
      [0x67, 0x67, 0x67, 0x67, 0x67, 0x67, 0x67, 0x67, 0x67, 0x67, 0x67, 0x67, 0x67, 0x0F, 0x94, 0x00]].map
        (undecoded ctx64) =
    [some .undefinedPrefix, some .undefinedPrefix, some .undefinedPrefix, some .notSetcc, some .notSetcc,
      some .nullSegPrefix, some .nullSegPrefix, some .multiSegPrefix, some .segPrefixOnReg, some .repeatedPrefix,
      some .repeatedPrefix, some .notSetcc, some .notSetcc, some .repeatedPrefix] := by
  decide

/-- V180: a store into the program text; V181: 40H outside 64-bit mode; V185 to V187: the instruction pointer. -/
theorem test_refused_steps :
    [stepOn long64 [0x0F, 0x94, 0x05, 0xF9, 0xFF, 0xFF, 0xFF], stepOn prot32 [0x40, 0x0F, 0x94, 0xC0],
      stepOn { long64 with pc := 0x7FFFFFFFFFFD } [0x0F, 0x94, 0xC0],
      stepOn { long64 with pc := 0xFFFFFFFFFFFFFFFE } [0x0F, 0x94, 0xC0],
      stepOn { real16 with pc := 0xFFFE } [0x0F, 0x94, 0xC0]].map refusalOf =
    [some .storeToText, some (.decoding .notSetcc), some .pcWrap, some .pcWrap, some .pcWrap] := by
  decide

/-- V182: a DS override outside 64-bit mode is honoured. -/
theorem test_ds_override_admitted : (nextOf (stepOn prot32 [0x3E, 0x0F, 0x94, 0x00])).isSome = true := by
  decide

/-- 60_exceptions.md R158: TF, or a breakpoint armed; 20_memory.md R47: no text at `pc`; R36: a device window. -/
theorem test_refused_launches :
    [stepOn { long64 with rflags := 0x102 } [0x0F, 0x94, 0xC0], stepOn { long64 with breakpointArmed := true } [0x0F, 0x94, 0xC0],
      step long64, stepOn { long64 with cfg := { long64.cfg with deviceWindows := [⟨0x1000, 0x1FFF⟩] } } [0x0F, 0x94, 0x00]].map
        refusalOf =
    [some .debugActive, some .debugActive, some .fetchOutsideText, some .notPlainMemory] := by
  decide

/-! WellFormed: an ill-formed term for each check. -/

/-- LOCK twice; two segment overrides; a segment override on a register form; ES in 64-bit mode. -/
theorem test_illFormed_prefixes :
    [(⟨[.lock, .lock], 0, .reg 0⟩ : Form), ⟨[.segment .fs, .segment .gs], 0, .based 0 .none⟩, ⟨[.segment .fs], 0, .reg 0⟩,
      ⟨[.segment .es], 0, .based 0 .none⟩].map (Form.wf ctx64 none) = [false, false, false, false] := by
  decide

/-- REX outside 64-bit mode. -/
theorem test_illFormed_rex : Instr.wf { ctx64 with mode := .prot } (.seteRex rex0 al) = false := by decide

/-- A 16-bit form in 64-bit mode; `rm = 4` as a plain base; `rm = 5` and SIB `base = 5` without a displacement. -/
theorem test_illFormed_operands64 :
    [(⟨[], 0, .based16 .bx .none⟩ : Form), ⟨[], 0, .abs16 0⟩, ⟨[], 0, .based 4 .none⟩, ⟨[], 0, .based 5 .none⟩,
      ⟨[], 0, .sib 0 0 5 .none⟩].map (Form.wf ctx64 none) = [false, false, false, false, false] := by
  decide

/-- BP without a displacement, and 32-bit forms, at address size 16. -/
theorem test_illFormed_operands16 :
    [(⟨[], 0, .based16 .bp .none⟩ : Form), ⟨[], 0, .direct 0⟩, ⟨[], 0, .based 0 .none⟩, ⟨[], 0, .sib 0 0 0 .none⟩,
      ⟨[], 0, .sibNoBase 0 0 0⟩].map (Form.wf { mode := .real, csD := .size16 } none) =
      [false, false, false, false, false] := by
  decide

/-- The opcode table's numbering: the first and a REX row, as the first instruction after reset. -/
theorem test_table_words :
    decodeTableWord 24 0x0F9700 = some (.seta ⟨[], 0, .based16 .bxSi .none⟩) ∧
      decodeTableWord 32 0x400F9700 = some (.setaRex rex0 ⟨[], 0, .based 0 .none⟩) ∧
      byteOf (step (State.reset.withFetchWord 24 0x0F9700)) 0 = some 1 ∧
      byteOf (step (State.reset.withFetchWord 32 0x400F9700)) 0 = some 1 := by
  decide

/-! The end of a run (70_reset_and_hazards.md R176), and flags that nothing has fixed (10_state.md R26). -/

/-- The final state of a run that ends in `Done`. -/
def doneOf : RunOutcome → Option State
  | .done t => some t
  | _ => none

/-- The fault a run ends in, and where. -/
def faultAt : RunOutcome → Option (Fault × Word)
  | .fault x t => some (x, t.pc)
  | _ => none

/-- The refusal a run ends in, and where. -/
def refusedAt : RunOutcome → Option (Refusal × Word)
  | .refused why t => some (why, t.pc)
  | _ => none

/-- SETE AL and the end of the text; the empty text; LOCK as in P4 (95_test_vectors.md); a text that ends inside an
instruction. -/
theorem test_run_ends :
    (doneOf (long64.withProgram [0x0F, 0x94, 0xC0]).outcome).map State.pc = some 0x400003 ∧
      (doneOf (long64.withProgram []).outcome).map State.pc = some 0x400000 ∧
      faultAt (long64.withProgram [0xF0, 0x0F, 0x95, 0x03]).outcome = some (.ud, 0x400000) ∧
      refusedAt (long64.withProgram [0x0F, 0x94, 0x80, 0x00]).outcome = some (.fetchOutsideText, 0x400000) := by
  decide

/-- With A20Masked, a text that ends at offset 100000H, where the linear address is 0 again (20_memory.md R38). -/
theorem test_run_ends_masked :
    (doneOf
      ({ real16 with
          pc := 0xFFFFD, segs := { realSegs with cs := segment 0 0 0xFFFFFFFF true },
          cfg := { real16.cfg with a20Masked := true } }.withProgram [0x0F, 0x94, 0xC0]).outcome).map State.pc =
      some 0x100000 := by
  decide

/-- Every proper beginning of an instruction's bytes is truncated. -/
theorem test_proper_beginnings :
    ([0, 1, 2, 3, 4, 5, 6, 7, 8, 9, 10, 11].map fun m =>
      undecoded ctx64 ([0xF0, 0x64, 0x67, 0x40, 0x0F, 0x94, 0x84, 0x8B, 0x00, 0x01, 0x00, 0x00].take m)) =
      List.replicate 12 (some .truncated) := by
  decide

/-- No flag fixed. -/
def unfixedFlags (s : State) : State := { s with unfixed := ⟨true, true, true, true, true⟩ }

/-- Two successive SETE on an unfixed ZF write two different draws. -/
theorem test_unfixed_flag_is_drawn_again :
    byteOf (exec (.sete ⟨[], 0, .based 0 .none⟩) (unfixedFlags long64)) 0x1000 =
        some (setValue (Config.freeFlags 0).zf) ∧
      ((nextOf (exec (.sete al) (unfixedFlags long64))).bind fun t => byteOf (exec (.sete ⟨[], 0, .based 3 .none⟩) t) 0x3000) =
        some (setValue (Config.freeFlags 1).zf) :=
  ⟨rfl, rfl⟩

/-! Witnesses: for every obligation with hypotheses, a concrete state and operands that meet them all together, one for
each clause, at boundary values where a clause has a range. -/

theorem exists_next {r : Result} (h : (nextOf r).isSome = true) : ∃ t, r = .next t := by
  cases r with
  | next t => exact ⟨t, rfl⟩
  | fault x => cases h
  | refused x => cases h

theorem eq_fault {r : Result} {x : Fault} (h : faultOf r = some x) : r = .fault x := by
  cases r with
  | fault y => cases h; rfl
  | next t => cases h
  | refused x => cases h

theorem eq_refused {r : Result} {x : Refusal} (h : refusalOf r = some x) : r = .refused x := by
  cases r with
  | refused y => cases h; rfl
  | next t => cases h
  | fault x => cases h

/-- `byte [rax]`. -/
def atRax : Form := { prefixes := [], reg := 0, rm := .based 0 .none }

/-- `byte [rbp]` with disp8 0, through SS. -/
def atRbp : Form := { prefixes := [], reg := 0, rm := .based 5 (.disp8 0) }

/-- `byte [bx]`. -/
def atBx : Form := { prefixes := [], reg := 0, rm := .based16 .bx .none }

/-- A form with a segment override. -/
def through (s : SegName) (f : Form) : Form := { f with prefixes := [.segment s] }

/-- A form with 67H. -/
def with67 (f : Form) : Form := { f with prefixes := [.addressSize] }

/-- A form with LOCK. -/
def locked (f : Form) : Form := { f with prefixes := [.lock] }

/-- `Translate` sends a supervisor write to 11000H to 9000H, and answers a page fault for a user write there. -/
def withTranslation (s : State) (paging : Bool) (cs : BitVec 16) : State :=
  { s with paging := paging, segs := { s.segs with cs := { s.segs.cs with selector := cs } }, cfg := { s.cfg with
      translations := [⟨0x11000, false, false, .ok 0x7000⟩, ⟨0x11000, true, true, .pageFault 7⟩,
        ⟨0x11000, true, false, .ok 0x9000⟩, ⟨0x11000, true, false, .ok 0xA000⟩] } }

/-- R40: the store goes where `Translate` says for a write at CPL 0 to 2, to the linear address with CR0.PG = 0, and
CPL 3 (the low two bits of the CS selector) is a user access. -/
theorem test_translation :
    [byteOf (stepOn (zf1 (withTranslation prot32 true 0x8)) [0x0F, 0x94, 0x00]) 0x9000,
      byteOf (stepOn (zf1 (withTranslation prot32 true 0xA)) [0x0F, 0x94, 0x00]) 0x9000,
      byteOf (stepOn (zf1 (withTranslation prot32 false 0xB)) [0x0F, 0x94, 0x00]) 0x11000] = [some 1, some 1, some 1] ∧
    faultOf (stepOn (withTranslation prot32 true 0xB) [0x0F, 0x94, 0x00]) = some (.pf 7 0x11000) := by
  decide

/-- A device window over 1000H to 1FFFH. -/
def withDevice (s : State) : State := { s with cfg := { s.cfg with deviceWindows := [⟨0x1000, 0x1FFF⟩] } }

theorem witness_ConditionsFollowTheFiveFlags :
    (14#4).getLsbD 0 = false ∧
      ([0, 2, 6, 7, 11].all fun k => (0x8C5 : Word).getLsbD k == (0xFFFFFFFFFFFFFFFF : Word).getLsbD k) = true := by
  decide

theorem witness_EffectiveAddressOf16BitForms : (0xFFFF : BitVec 16) = (0xFF : BitVec 8).signExtend 16 := by decide

theorem witness_EffectiveAddressOfBaseForms :
    (0xFFFFFFFFFFFFFF80 : Word) = (0x80 : BitVec 8).signExtend 64 ∧ (0xFFFFFF80 : BitVec 32) = (0x80 : BitVec 8).signExtend 32 ∧
      prot32.mode ≠ .long64 := by
  decide

theorem witness_EffectiveAddressOfSibForms :
    (0xFFFFFFFF80000000 : Word) = (0x80000000 : BitVec 32).signExtend 64 ∧
      (0 : Word) = (if BitVec.ofBool (rexX none) ++ 4#3 = 4#4 then 0 else long64.reg (BitVec.ofBool (rexX none) ++ 4#3)) ∧
      (0xC000 : Word) = (if BitVec.ofBool (rexX (some ⟨false, false, true, false⟩)) ++ 4#3 = 4#4 then 0
        else long64.reg (BitVec.ofBool (rexX (some ⟨false, false, true, false⟩)) ++ 4#3)) := by
  decide

theorem witness_EffectiveAddressRelativeToNextInstruction :
    long64.mode = .long64 ∧ (⟨[], 0, .direct 0x80000000⟩ : Form).rm = .direct 0x80000000 ∧
      (⟨[], 0, .direct 0x80000000⟩ : Form).hasAddressSize = false ∧ (⟨[], 0, .direct 0x80000000⟩ : Form).override = none ∧
      (⟨[.addressSize], 0, .direct 0x80000000⟩ : Form).hasAddressSize = true := by
  decide

theorem witness_SegmentOfMemoryForm :
    (through .fs atRax).override = some .fs ∧ atRbp.override = none ∧ atRbp.rm = .based 5 (.disp8 0) ∧
      (⟨[], 0, .sib 0 4 4 .none⟩ : Form).override = none ∧ (⟨[], 0, .sib 0 4 4 .none⟩ : Form).rm = .sib 0 4 4 .none ∧
      (⟨[], 0, .sibNoBase 0 5 0⟩ : Form).override = none ∧ (⟨[], 0, .sibNoBase 0 5 0⟩ : Form).rm = .sibNoBase 0 5 0 ∧
      (⟨[], 0, .direct 0⟩ : Form).override = none ∧ (⟨[], 0, .direct 0⟩ : Form).rm = .direct 0 := by
  decide

theorem witness_LinearAddressByMode :
    real16.mode = .real ∧ v86.mode = .v86 ∧ prot32.mode = .prot ∧ compat.mode = .compat ∧ long64.mode = .long64 ∧
      SegName.ds ≠ .fs ∧ SegName.ds ≠ .gs := by
  decide

theorem witness_CanonicalAddresses :
    long64.mode = .long64 ∧ canonical .va48 0x00007FFFFFFFFFFF = true ∧ canonical .va48 0x0000800000000000 = false ∧
      canonical .va48 0xFFFF800000000000 = true ∧ canonical .va57 0x00FFFFFFFFFFFFFF = true := by
  decide

theorem witness_OffsetOutsideSegmentLimit :
    (segment 0x18 0 0xFFF true).expandDown = false ∧
      ({ segment 0x18 0 0xFFF true with expandDown := true }).expandDown = true := by
  decide

/-- A SETcc of 12 bytes with LOCK and one of 11 without. -/
theorem witness_EncodedLengthIsBounded :
    Instr.wf ctx64 (.seteRex rex0 ⟨[.lock, .segment .fs, .addressSize], 0, .sib 0 0 0 (.disp32 0)⟩) = true ∧
      Instr.wf ctx64 (.seteRex rex0 ⟨[.segment .fs, .addressSize], 0, .sib 0 0 0 (.disp32 0)⟩) = true ∧
      (⟨[.segment .fs, .addressSize], 0, .sib 0 0 0 (.disp32 0)⟩ : Form).locked = false := by
  decide

theorem witness_DecodeOfEncodeGivesInstruction :
    Instr.wf ctx64 (.setnbe atRax) = true ∧ Instr.wf ctx64 (.setaRex rex0 atRax) = true ∧
      Instr.setaRex rex0 atRax =
        .ofCondition (Instr.setaRex rex0 atRax).condition (Instr.setaRex rex0 atRax).rex (Instr.setaRex rex0 atRax).form ∧
      Instr.wf real16.ctx (.sete ⟨[], 0, .abs16 0xFFFF⟩) = true ∧ Instr.wf compat.ctx (.sete ⟨[], 7, .direct 0⟩) = true := by
  decide

theorem witness_EncodeOfDecodeGivesBytes :
    decode ctx64 [0x40, 0x0F, 0x97, 0x80, 0x01, 0x02, 0x03, 0x84, 0x90] =
      .ok (.setaRex rex0 ⟨[], 0, .based 0 (.disp32 0x84030201)⟩, [0x90]) := by
  rfl

theorem witness_IgnoredPrefixesAreRefused : prefixesOk [.lock, .segment .gs, .addressSize] = true := by decide

theorem witness_RexByteBelongsToSetccOnlyIn64BitMode :
    prot32.ctx.mode ≠ .long64 ∧ prefixesOk [.addressSize] = true ∧ 0x40 ≤ (0x40 : Byte).toNat ∧ (0x40 : Byte).toNat ≤ 0x4F ∧
      0x40 ≤ (0x4F : Byte).toNat ∧ (0x4F : Byte).toNat ≤ 0x4F := by
  decide

/-- The clauses in their order. -/
theorem witness_RefusedFormsByName :
    (ctx64.mode = .long64 ∧ prefixesOk [] = true ∧ 0x40 ≤ (0x4F : Byte).toNat ∧ (0x4F : Byte).toNat ≤ 0x4F ∧
      (0x64 : Byte) ≠ 0x0F#8) ∧
    (prefixesOk [.segment .fs] = true ∧ [LegacyPrefix.segment .fs].any (LegacyPrefix.segment .gs).sameKind = true ∧
      prefixesOk [.lock, .addressSize] = true ∧ [LegacyPrefix.lock, .addressSize].any LegacyPrefix.lock.sameKind = true) ∧
    ((0x8F : Byte).toNat < 0x90 ∧ 0x9F < (0xA0 : Byte).toNat) ∧
    (0x90#8 ∉ [0xF0#8, 0x26#8, 0x2E#8, 0x36#8, 0x3E#8, 0x64#8, 0x65#8, 0x67#8, 0x66#8, 0xF2#8, 0xF3#8] ∧
      0x90#8 ≠ 0x0F#8 ∧ ¬(ctx64.mode = .long64 ∧ 0x40 ≤ (0x90 : Byte).toNat ∧ (0x90 : Byte).toNat ≤ 0x4F) ∧
      ¬(prot32.ctx.mode = .long64 ∧ 0x40 ≤ (0x40 : Byte).toNat ∧ (0x40 : Byte).toNat ≤ 0x4F)) ∧
    (ctx64.mode = .long64 ∧ 0x40 ≤ (0x40 : Byte).toNat ∧ (0x40 : Byte).toNat ≤ 0x4F ∧ (0x8F : Byte).toNat < 0x90) ∧
    (prefixesOk (through .fs al).prefixes = true ∧ (Instr.sete (through .fs al)).rex = none ∧
      (through .fs al).override = some .fs ∧ (through .fs al).rm.isReg = true) ∧
    (prefixesOk (through .ss atRax).prefixes = true ∧ ctx64.mode = .long64 ∧ (through .ss atRax).override = some .ss ∧
      (through .ss atRax).rm.isReg = false ∧ (through .ss atRax).rm.wf (addrSize ctx64 (through .ss atRax).hasAddressSize) = true) := by
  decide

/-- A register form, with an address size prefix too, and memory forms in every mode, without and with REX: the hypotheses
of the six completion statements and of `EverySetccWritesItsByte`. -/
theorem witness_ready :
    long64.ready none al = true ∧ long64.ready (some rex0) al = true ∧ long64.ready none atRax = true ∧
      long64.ready (some ⟨true, true, true, true⟩) (with67 (through .gs atRax)) = true ∧ prot32.ready none atRax = true ∧
      compat.ready none atRbp = true ∧ real16.ready none atBx = true ∧ v86.ready none (with67 al) = true := by
  decide

theorem witness_CarrySetccComplete : long64.ready none al = true ∧ long64.ready (some rex0) atRax = true := by decide

theorem witness_AboveSetccComplete : long64.ready none al = true ∧ long64.ready (some rex0) atRax = true := by decide

theorem witness_EqualSetccComplete : prot32.ready none atRax = true ∧ long64.ready (some rex0) al = true := by decide

theorem witness_SignedSetccComplete : real16.ready none atBx = true ∧ long64.ready (some rex0) atRax = true := by decide

theorem witness_SignAndOverflowSetccComplete : v86.ready none al = true ∧ long64.ready (some rex0) atRbp = true := by decide

theorem witness_ParitySetccComplete : compat.ready none atRax = true ∧ long64.ready (some rex0) al = true := by decide

theorem witness_EverySetccWritesItsByte :
    long64.ready (Instr.seto al).rex (Instr.seto al).form = true ∧
      long64.ready (Instr.setoRex rex0 atRax).rex (Instr.setoRex rex0 atRax).form = true ∧ atRax.rm.isReg = false := by
  decide

/-- A low and a high byte register, and a memory form with the address it stores to. -/
theorem witness_SetccFrame :
    (∃ t, exec (.sete al) long64 = .next t) ∧ (∃ t, exec (.sete ⟨[], 0, .reg 7⟩) long64 = .next t) ∧
      (∃ t, exec (.sete atRax) long64 = .next t) ∧
      long64.unfixed = ⟨false, false, false, false, false⟩ ∧ byteRegister none 0 = .low 0 ∧ byteRegister none 7 = .high 3 ∧
      long64.storesTo none atRax = some 0x1000 :=
  ⟨exists_next (by decide), exists_next (by decide), exists_next (by decide), rfl, by decide, by decide, by decide⟩

/-- Two instructions of program text, and a run over both. -/
theorem witness_RunKeepsFlagsAndSetting :
    ∃ t, Sys2Proof.core.run 2 (long64.withProgram [0x0F, 0x94, 0xC0, 0x0F, 0x95, 0x00]) = .next t :=
  exists_next (by decide)

/-- SETE without and SETZ with other ignored bits; REX.X differs where there is no SIB byte. -/
theorem witness_IgnoredEncodingBitsDoNotMatter :
    let i : Instr := .seteRex ⟨false, false, false, true⟩ ⟨[], 0, .based 0 .none⟩
    let j : Instr := .setzRex ⟨true, true, true, true⟩ ⟨[], 7, .based 0 .none⟩
    i.condition = j.condition ∧ i.form.prefixes = j.form.prefixes ∧ i.form.rm = j.form.rm ∧ i.rex.isSome = j.rex.isSome ∧
      rexB i.rex = rexB j.rex ∧
      ¬((∃ sc ix b d, i.form.rm = .sib sc ix b d) ∨ (∃ sc ix d, i.form.rm = .sibNoBase sc ix d)) := by
  refine ⟨rfl, rfl, rfl, rfl, rfl, ?_⟩
  rintro (⟨_, _, _, _, h⟩ | ⟨_, _, _, h⟩) <;> cases h

theorem witness_DestinationIsWrittenNotRead :
    (∃ t, exec (.sete atRax) long64 = .next t) ∧ long64.storesTo (Instr.sete atRax).rex (Instr.sete atRax).form = some 0x1000 ∧
      (∃ t, exec (.sete al) long64 = .next t) ∧ (Instr.sete al).form.rm = .reg 0 :=
  ⟨exists_next (by decide), by decide, exists_next (by decide), rfl⟩

theorem witness_RegisterFormIsSameInEveryMode :
    (Instr.sete al).rex = none ∧ (Instr.sete al).form.rm = .reg 0 ∧ (∃ t, exec (.sete al) real16 = .next t) ∧
      ({ real16 with mode := .long64 }).pcInRange (Instr.sete al).length = true :=
  ⟨rfl, rfl, exists_next (by decide), by decide⟩

/-- The last canonical address of the lower half; the byte at the limit of a DS, and through SS; the byte at the limit of
a real-address-mode segment; paging on with an entry of the table that answers an address, and off. -/
theorem witness_AddressesThatPassTheChecks :
    (destination (withReg long64 0 0x7FFFFFFFFFFF) none atRax = .mem .ds 0x7FFFFFFFFFFF ∧
      canonical .va48 0x7FFFFFFFFFFF = true ∧
      (withReg long64 0 0x7FFFFFFFFFFF).translate ((withReg long64 0 0x7FFFFFFFFFFF).linear .ds 0x7FFFFFFFFFFF) true =
        .ok 0x7FFFFFFFFFFF) ∧
    (destination (withReg prot32 0 0xFFFFF) none atRax = .mem .ds 0xFFFFF ∧ (prot32.seg .ds).writable = true ∧
      (prot32.seg .ds).outsideLimit 0xFFFFF = false ∧ (prot32.seg .ds).selector.toNat ≥ 4 ∧
      prot32.translate (prot32.linear .ds 0xFFFFF) true = .ok 0x10FFFF) ∧
    (destination (withReg real16 3 0xFFFF) none atBx = .mem .ds 0xFFFF ∧ (real16.seg .ds).outsideLimit 0xFFFF = false ∧
      real16.translate (real16.linear .ds 0xFFFF) true = .ok 0x1FFFF) ∧
    (let s := withTranslation prot32 true 0xA
     s.pagingOn = true ∧ destination s none atRax = .mem .ds 0x1000 ∧ (s.seg .ds).outsideLimit 0x1000 = false ∧
      s.translate (s.linear .ds 0x1000) true = .ok 0x9000 ∧ (withTranslation prot32 false 0xA).pagingOn = false ∧
      (∀ x ∈ s.cfg.translations.take 2, ¬(x.linear = 0x11000 ∧ x.write = true ∧ x.user = false)) ∧
      (∀ x ∈ s.cfg.translations, ¬(x.linear = 0x11001 ∧ x.write = true ∧ x.user = false))) := by
  decide

theorem witness_LockPrefixRaisesInvalidOpcode :
    long64.issues none (locked al) = true ∧ (locked al).locked = true ∧ real16.issues none (locked atBx) = true ∧
      long64.issues (some rex0) (locked atRax) = true := by
  decide

theorem witness_ProtectedModeNonWritableSegmentFaults :
    prot32.addresses (.sete (through .gs atRax)) .gs 0x1000 ∧ (prot32.seg .gs).writable = false ∧
      prot32.addresses (.sete (through .cs atRax)) .cs 0x1000 := by
  unfold State.addresses
  decide

/-- One past the limit of ES, and of SS. -/
theorem witness_ProtectedModeSegmentLimitFaults :
    (withReg prot32 0 0x1000).addresses (.sete (through .es atRax)) .es 0x1000 ∧ (prot32.seg .es).outsideLimit 0x1000 = true ∧
      (withReg prot32 5 0x10000).addresses (.sete atRbp) .ss 0x10000 ∧ (prot32.seg .ss).outsideLimit 0x10000 = true ∧
      (prot32.seg .es).expandDown = false := by
  unfold State.addresses
  decide

/-- The NULL selectors 0 (FS) and 3 (GS); SS in use beside them. -/
theorem witness_ProtectedModeNullSelectorFaults :
    let s : State := { prot32 with segs := { prot32.segs with gs := segment 3 0 0xFFFF true } }
    s.mode = .prot ∧ s.addresses (.sete (through .fs atRax)) .fs 0x1000 ∧ (s.seg .fs).selector.toNat ≤ 3 ∧
      s.addresses (.sete (through .gs atRax)) .gs 0x1000 ∧ (s.seg .gs).selector.toNat ≤ 3 ∧
      s.addresses (.sete atRbp) .ss 0x7000 ∧ (s.seg .ss).writable = true ∧ (s.seg .ss).outsideLimit 0x7000 = false := by
  unfold State.addresses
  decide

theorem witness_PageFaultIsRaisedAfterSegmentChecks :
    let s := withPageFault long64 0x1000 7
    let u := withPageFault prot32 0x11000 2
    s.addresses (.sete atRax) .ds 0x1000 ∧ s.pagingOn = true ∧ s.segmentFault .ds 0x1000 = none ∧
      translateBy s.cfg.translations (s.linear .ds 0x1000) true s.user = .pageFault 7 ∧
      u.addresses (.sete atRax) .ds 0x1000 ∧ u.pagingOn = true ∧ u.segmentFault .ds 0x1000 = none ∧
      translateBy u.cfg.translations (u.linear .ds 0x1000) true u.user = .pageFault 2 ∧
      exec (.sete atRax) s = .fault (.pf 7 0x1000) ∧
      (long64.mode = .long64 ∧ compat.mode = .compat ∧ prot32.mode = .prot ∧ v86.mode = .v86 ∧ real16.mode = .real) ∧
      (withTranslation prot32 true 0xA).user = false ∧ (withTranslation prot32 true 0xB).user = true ∧
      (withTranslation compat true 0xB).user = true ∧ (withTranslation v86 true 0xA).user = true := by
  unfold State.addresses
  exact ⟨by decide, by decide, by decide, by decide, by decide, by decide, by decide, by decide, eq_fault (by decide),
    by decide, by decide, by decide, by decide, by decide⟩

/-- One past the limit of DS (67H) and of SS; CS at the limit; limit FFFFH at address size 16. -/
theorem witness_RealModeLimitFaultsWithoutErrorCode :
    (withReg real16 0 0x10000).addresses (.sete (with67 atRax)) .ds 0x10000 ∧ (real16.seg .ds).outsideLimit 0x10000 = true ∧
      (withReg real16 5 0x10000).addresses (.sete (with67 atRbp)) .ss 0x10000 ∧ (real16.seg .ss).outsideLimit 0x10000 = true ∧
      (withReg real16 3 0xFFFF).addresses (.sete (through .cs atBx)) .cs 0xFFFF ∧ (real16.seg .cs).outsideLimit 0xFFFF = false ∧
      addrSize real16.ctx atBx.hasAddressSize = .a16 ∧ (real16.seg .cs).limit = 0xFFFF ∧
      (real16.seg .cs).expandDown = false := by
  unfold State.addresses
  decide

/-- One past the limit; and a page fault inside it. -/
theorem witness_Virtual8086ModeLimitFaults :
    v86.mode = .v86 ∧ (withReg v86 0 0x10000).addresses (.sete (with67 atRax)) .ds 0x10000 ∧
      (v86.seg .ds).outsideLimit 0x10000 = true ∧ (withReg v86 5 0x10000).addresses (.sete (with67 atRbp)) .ss 0x10000 ∧
      (v86.seg .ss).outsideLimit 0x10000 = true ∧ (withReg v86 3 0xFFFF).addresses (.sete atBx) .ds 0xFFFF ∧
      (v86.seg .ds).outsideLimit 0xFFFF = false ∧
      exec (.sete atBx) (withPageFault (withReg v86 3 0xFFFF) 0x1FFFF 6) = .fault (.pf 6 0x1FFFF) := by
  unfold State.addresses
  exact ⟨by decide, by decide, by decide, by decide, by decide, by decide, by decide, eq_fault (by decide)⟩

theorem witness_CompatibilityModeFaultsAsProtectedMode :
    let s : State := { prot32 with paging := true }
    s.mode = .prot ∧ s.paging = true ∧ exec (.sete (through .gs atRax)) s = .fault (.gp (some 0)) ∧
      exec (.sete (through .gs atRax)) { s with mode := .compat } = .fault (.gp (some 0)) :=
  ⟨by decide, by decide, eq_fault (by decide), eq_fault (by decide)⟩

/-- The first address past the lower canonical half through DS and through SS; the last one inside, with a page fault. -/
theorem witness_NonCanonicalAddressFaults :
    (withReg long64 0 0x800000000000).addresses (.sete atRax) .ds 0x800000000000 ∧
      canonical .va48 0x800000000000 = false ∧
      (withReg long64 5 0x800000000000).addresses (.sete atRbp) .ss 0x800000000000 ∧
      (withReg long64 0 0x7FFFFFFFFFFF).addresses (.sete atRax) .ds 0x7FFFFFFFFFFF ∧
      canonical .va48 0x7FFFFFFFFFFF = true ∧
      exec (.sete atRax) (withPageFault (withReg long64 0 0x7FFFFFFFFFFF) 0x7FFFFFFFFFFF 6) =
        .fault (.pf 6 0x7FFFFFFFFFFF) := by
  unfold State.addresses
  exact ⟨by decide, by decide, by decide, by decide, by decide, eq_fault (by decide)⟩

theorem witness_OnlyTheListedFaults :
    exec (.sete (locked al)) long64 = .fault .ud ∧ exec (.sete atRbp) (withReg prot32 5 0x10000) = .fault (.ss (some 0)) ∧
      exec (.sete (with67 atRax)) (withReg real16 0 0x10000) = .fault (.gp none) ∧
      exec (.sete atRax) (withPageFault long64 0x1000 7) = .fault (.pf 7 0x1000) :=
  ⟨eq_fault (by decide), eq_fault (by decide), eq_fault (by decide), eq_fault (by decide)⟩

theorem witness_SegmentFaultComesBeforePageFault :
    prot32.addresses (.sete (through .gs atRax)) .gs 0x1000 ∧ prot32.segmentFault .gs 0x1000 = some (.gp (some 0)) ∧
      prot32.issues none (locked atRax) = true ∧ (locked atRax).locked = true := by
  unfold State.addresses
  decide

/-- Program text at the destination, byte number 2 of its three; and a step that completes. -/
theorem witness_StoreIntoProgramTextIsRefused :
    let s := (withReg long64 0 0x400002).withProgram [0x0F, 0x94, 0x00]
    s.addresses (.sete atRax) .ds 0x400002 ∧ s.storesTo none atRax = some 0x400002 ∧ 2 < s.text.length ∧
      s.textAddress (s.text.base + BitVec.ofNat 64 2) = some 0x400002 ∧
      ∃ t, step (long64.withProgram [0x0F, 0x94, 0x00]) = .next t := by
  unfold State.addresses
  exact ⟨by decide, by decide, by decide, by decide, exists_next (by decide)⟩

/-- One refusal of each kind: the last byte of a device window, one byte past the top of the lower canonical half, a
REX form outside 64-bit mode, and the last byte of the program text. -/
theorem witness_RefusalsOfWellFormedInstructions :
    exec (.sete atRax) (withDevice (withReg long64 0 0x1FFF)) = .refused .notPlainMemory ∧
      (withDevice (withReg long64 0 0x1FFF)).addresses (.sete atRax) .ds 0x1FFF ∧
      (withDevice (withReg long64 0 0x1FFF)).storesTo none atRax = some 0x1FFF ∧
      (withDevice (withReg long64 0 0x1FFF)).inTextPhysical 0x1FFF = false ∧
      (withDevice (withReg long64 0 0x1FFF)).plainMemory 0x1FFF = false ∧
      Instr.wf long64.ctx (.sete al) = true ∧ ({ long64 with pc := 0x7FFFFFFFFFFD }).pcInRange (Instr.sete al).length = false ∧
      Instr.wf prot32.ctx (.seteRex rex0 al) = false ∧
      (let s := (withReg long64 0 0x400002).withProgram [0x0F, 0x94, 0x00]
       s.addresses (.sete atRax) .ds 0x400002 ∧ s.storesTo none atRax = some 0x400002 ∧
         s.inTextPhysical 0x400002 = true ∧ exec (.sete atRax) s = .refused .storeToText) := by
  unfold State.addresses
  exact ⟨eq_refused (by decide), by decide, by decide, by decide, by decide, by decide, by decide, by decide,
    by decide, by decide, by decide, eq_refused (by decide)⟩

/-- The last place where SETE AL completes in 64-bit mode, and in real-address mode. -/
theorem witness_InstructionPointerAdvancesByLength :
    (∃ t, exec (.sete al) { long64 with pc := 0x7FFFFFFFFFFC } = .next t) ∧
      (∃ t, exec (.sete al) { real16 with pc := 0xFFFC } = .next t) :=
  ⟨exists_next (by decide), exists_next (by decide)⟩

theorem witness_ActiveDebugIsRefused :
    step { long64 with rflags := 0x102 } = .refused .debugActive ∧
      step { long64 with breakpointArmed := true } = .refused .debugActive :=
  ⟨eq_refused (by decide), eq_refused (by decide)⟩

theorem witness_StepRunsDecodedInstruction :
    let s := long64.withProgram [0x0F, 0x94, 0x00]
    s.rflags.getLsbD 8 = false ∧ s.breakpointArmed = false ∧ decode s.ctx s.fetchWindow = .ok (.sete atRax, []) ∧
      decode (long64.withProgram [0x66, 0x0F, 0x94, 0x00]).ctx (long64.withProgram [0x66, 0x0F, 0x94, 0x00]).fetchWindow =
        .error .undefinedPrefix :=
  ⟨by decide, by decide, rfl, rfl⟩

theorem witness_StepRunsEncodedInstruction :
    let s := long64.withProgram [0x0F, 0x94, 0x00]
    s.rflags.getLsbD 8 = false ∧ s.breakpointArmed = false ∧ (Instr.setz atRax).wf s.ctx = true ∧
      ∀ k (hk : k < (Instr.setz atRax).encode.length),
        s.fetchByte (s.pc + BitVec.ofNat 64 k) = some (Instr.setz atRax).encode[k] := by
  decide

/-- The first and the last byte of a text read through a translation of 401000H to 500000H, and the offset past it. -/
theorem witness_TextIsReadThroughTranslation :
    let e : Word → TranslateEntry := fun k => ⟨0x401000 + k, false, true, .ok (0x500000 + k)⟩
    let s := { long64.withProgram [0x0F, 0x94] with text := ⟨0x401000, 2⟩, cfg := { long64.cfg with translations :=
      [e 0, e 1, ⟨0x401002, false, true, .pageFault 4⟩] } }
    let t := (s.writeByte 0x500000 0x0F).writeByte 0x500001 0x95
    t.inText 0x401000 = true ∧ t.inText 0x401001 = true ∧ t.inText 0x401002 = false ∧
      t.translate (t.linear .cs 0x401001) false = .ok 0x500001 ∧ t.fetchByte 0x401000 = some 0x0F ∧
      t.fetchByte 0x401001 = some 0x95 ∧ t.translate (t.linear .cs 0x401002) false = .pageFault 4 ∧
      t.fetchByte 0x401002 = none := by
  decide

/-- `pc` just past the text; outside the text; the last byte of SETE byte [rax+1] missing, in range of pc and, at the top of
the lower canonical half, out of it. -/
theorem witness_FetchOutsideTextIsRefused :
    let p : List Byte := [0x0F, 0x94, 0x40]
    let i : Instr := .sete ⟨[], 0, .based 0 (.disp8 1)⟩
    let s := long64.withProgram p
    let u := ({ long64 with pc := 0x7FFFFFFFFFFD }).withProgram p
    ({ s with pc := 0x400003 }.debugActive = false ∧
        ({ s with pc := 0x400003 } : State).pc.toNat = s.text.base.toNat + s.text.length) ∧
      ({ s with pc := 0x400004 }.pc.toNat ≠ s.text.base.toNat + s.text.length ∧
        { s with pc := 0x400004 }.pcInRange 1 = true ∧ { s with pc := 0x400004 }.fetchByte 0x400004 = none) ∧
      (s.debugActive = false ∧ s.pc.toNat ≠ s.text.base.toNat + s.text.length ∧ i.wf s.ctx = true ∧ 3 < i.encode.length ∧
        (∀ k, k < 3 → s.fetchByte (s.pc + BitVec.ofNat 64 k) = i.encode[k]?) ∧
        s.fetchByte (s.pc + BitVec.ofNat 64 3) = none ∧ s.pcInRange 4 = true) ∧
      (u.debugActive = false ∧ u.pc.toNat ≠ u.text.base.toNat + u.text.length ∧
        (∀ k, k < 3 → u.fetchByte (u.pc + BitVec.ofNat 64 k) = i.encode[k]?) ∧
        u.fetchByte (u.pc + BitVec.ofNat 64 3) = none ∧ u.pcInRange 4 = false) := by
  decide

theorem witness_StepKeepsMachineInvariant :
    ∃ t, (long64.withProgram [0x0F, 0x94, 0x00]).inv = true ∧ step (long64.withProgram [0x0F, 0x94, 0x00]) = .next t := by
  obtain ⟨t, h⟩ := exists_next (r := step (long64.withProgram [0x0F, 0x94, 0x00])) (by decide)
  exact ⟨t, by decide, h⟩

theorem witness_RunLengthIsBoundedByText :
    ∃ t, Sys2Proof.core.run 2 (long64.withProgram [0x0F, 0x94, 0xC0, 0x0F, 0x95, 0x00]) = .next t :=
  exists_next (by decide)

theorem witness_UnfixedFlagIsDrawnAtEachReading :
    (∃ t, exec (.sete al) (unfixedFlags long64) = .next t) ∧
      ∃ t, Sys2Proof.core.run 2 (unfixedFlags (long64.withProgram [0x0F, 0x94, 0xC0, 0x0F, 0x95, 0xC3])) = .next t :=
  ⟨exists_next (by decide), exists_next (by decide)⟩

/-- One completed step, and `pc` then just past the text. -/
theorem witness_RunEndsInDoneFaultOrRefused :
    (long64.withProgram [0x0F, 0x94, 0xC0]).debugActive = false ∧
      ((nextOf (Sys2Proof.core.run 1 (long64.withProgram [0x0F, 0x94, 0xC0]))).map fun t => t.pc.toNat) =
        some ((long64.withProgram [0x0F, 0x94, 0xC0]).text.base.toNat +
          (long64.withProgram [0x0F, 0x94, 0xC0]).text.length) := by
  decide

end Sys2Proof.Tests
end

/-!
Proofs about the state: what a completed SETcc keeps, over one step and over a run (10_state.md R14 to R26).

One inversion lemma, `exec_next`, says what a completed instruction leaves; the frame, the instruction pointer and the
draw counter are read off it once, and one induction (`core_run_induction`) carries each of them along a run.
-/

namespace Sys2Proof.Machine

/-! The instruction pointer (10_state.md R14). -/

theorem State.pcInRange_long64 {s : State} {len : Nat} (hm : s.mode = .long64) :
    s.pcInRange len = true ↔
      s.pc.toNat + len < 2 ^ 64 ∧ ∀ k ≤ len, canonical s.cfg.vaBits (s.pc + BitVec.ofNat 64 k) = true := by
  simp [State.pcInRange, hm, Nat.lt_succ_iff]

theorem State.pcInRange_of_ne_long64 {s : State} {len : Nat} (hm : s.mode ≠ .long64) :
    s.pcInRange len = true ↔ s.pc.toNat + len ≤ s.segs.cs.limit.toNat := by
  cases h : s.mode <;> simp_all [State.pcInRange]

/-- In range, the next `pc` does not wrap: outside 64-bit mode the CS limit is a 32-bit number. -/
theorem State.toNat_nextPc {s : State} {len : Nat} (h : s.pcInRange len = true) :
    (s.pc + BitVec.ofNat 64 len).toNat = s.pc.toNat + len := by
  have hlt : s.pc.toNat + len < 2 ^ 64 := by
    by_cases hm : s.mode = .long64
    · exact ((State.pcInRange_long64 hm).mp h).1
    · have hle := (State.pcInRange_of_ne_long64 hm).mp h
      have hlimit := s.segs.cs.limit.isLt
      omega
  rw [BitVec.toNat_add, BitVec.toNat_ofNat, Nat.add_mod_mod, Nat.mod_eq_of_lt hlt]

theorem State.pcLegal_long64 {s : State} (hm : s.mode = .long64) : s.pcLegal = canonical s.cfg.vaBits s.pc := by
  simp [State.pcLegal, hm]

theorem State.pcLegal_of_ne_long64 {s : State} (hm : s.mode ≠ .long64) :
    s.pcLegal = true ↔ s.pc.toNat ≤ s.segs.cs.limit.toNat := by
  cases h : s.mode <;> simp_all [State.pcLegal]

/-! What a step keeps besides the destination, `pc` and the draw counter (40_setcc.md R83). -/

theorem State.sameSetting_refl (s : State) : s.sameSetting s := ⟨rfl, rfl, rfl, rfl, rfl, rfl, rfl, rfl, rfl⟩

theorem State.sameSetting_trans {s u t : State} (h : s.sameSetting u) (h' : u.sameSetting t) : s.sameSetting t := by
  obtain ⟨a1, a2, a3, a4, a5, a6, a7, a8, a9⟩ := h
  obtain ⟨b1, b2, b3, b4, b5, b6, b7, b8, b9⟩ := h'
  exact ⟨b1.trans a1, b2.trans a2, b3.trans a3, b4.trans a4, b5.trans a5, b6.trans a6, b7.trans a7, b8.trans a8,
    b9.trans a9⟩

theorem State.sameSetting_writeReg8_retire (s : State) (k : Reg8) (v : Byte) (pc' : Word) :
    s.sameSetting ((s.writeReg8 k v).retire pc') := ⟨rfl, rfl, rfl, rfl, rfl, rfl, rfl, rfl, rfl⟩

theorem State.sameSetting_writeByte_retire (s : State) (p : Word) (v : Byte) (pc' : Word) :
    s.sameSetting ((s.writeByte p v).retire pc') := ⟨rfl, rfl, rfl, rfl, rfl, rfl, rfl, rfl, rfl⟩

theorem State.flags_eq_of_sameSetting {s t : State} (h : s.sameSetting t)
    (hfixed : s.unfixed = ⟨false, false, false, false, false⟩) : t.flags = s.flags := by
  obtain ⟨hrflags, hunfixed, -⟩ := h
  rw [State.flags_of_fixed hfixed, State.flags_of_fixed (hunfixed.trans hfixed), hrflags]

/-! What a completed instruction leaves. -/

/-- If `exec` gives a next state, it wrote one byte register or one byte of memory, and advanced `pc`. -/
theorem exec_next {i : Instr} {s t : State} (h : exec i s = .next t) :
    s.issues i.rex i.form = true ∧ i.form.locked = false ∧
    ((∃ k, destination s i.rex i.form = .reg k ∧
        t = (s.writeReg8 k (setValue (s.test i.condition))).retire (s.pc + BitVec.ofNat 64 i.length)) ∨
     (∃ n ea p, destination s i.rex i.form = .mem n ea ∧ s.resolve n ea = .ok p ∧ s.storeRefusal p = none ∧
        t = (s.writeByte p (setValue (s.test i.condition))).retire (s.pc + BitVec.ofNat 64 i.length))) :=
  setByte_next (exec_eq_setByte i s ▸ h)

theorem exec_next_sameSetting {i : Instr} {s t : State} (h : exec i s = .next t) : s.sameSetting t := by
  obtain ⟨-, -, ⟨k, -, rfl⟩ | ⟨n, ea, p, -, -, -, rfl⟩⟩ := exec_next h
  · exact s.sameSetting_writeReg8_retire ..
  · exact s.sameSetting_writeByte_retire ..

theorem exec_next_draws {i : Instr} {s t : State} (h : exec i s = .next t) : t.draws = s.draws + 1 := by
  obtain ⟨-, -, ⟨k, -, rfl⟩ | ⟨n, ea, p, -, -, -, rfl⟩⟩ := exec_next h <;> simp

theorem exec_next_pc {i : Instr} {s t : State} (h : exec i s = .next t) :
    t.pc = s.pc + BitVec.ofNat 64 i.length := by
  obtain ⟨-, -, ⟨k, -, rfl⟩ | ⟨n, ea, p, -, -, -, rfl⟩⟩ := exec_next h <;> simp

theorem exec_next_pcInRange {i : Instr} {s t : State} (h : exec i s = .next t) : s.pcInRange i.length = true := by
  obtain ⟨hissues, -⟩ := exec_next h
  exact ((Bool.and_eq_true _ _).mp hissues).2

theorem exec_next_mem_wf {i : Instr} {s t : State} (h : exec i s = .next t) (hs : Memory.wf s.mem = true) :
    Memory.wf t.mem = true := by
  obtain ⟨-, -, ⟨k, -, rfl⟩ | ⟨n, ea, p, -, -, -, rfl⟩⟩ := exec_next h
  · exact hs
  · exact s.writeByte_keeps_wf p _ hs

/-- Settles O49: the range check of R82 step (1) bounds `pc + len`, and its last canonical test is that of the next
`pc`. -/
theorem instructionPointerAdvancesByLength : Obligations.InstructionPointerAdvancesByLength := by
  intro i s t h
  have hrange := exec_next_pcInRange h
  have hnat : t.pc.toNat = s.pc.toNat + i.length := by rw [exec_next_pc h, State.toNat_nextPc hrange]
  refine ⟨hnat, fun hm => ?_, fun hm => ?_⟩
  · rw [exec_next_pc h]
    exact ((State.pcInRange_long64 hm).mp hrange).2 i.length le_rfl
  · rw [hnat]
    exact (State.pcInRange_of_ne_long64 hm).mp hrange

theorem exec_next_pcLegal {i : Instr} {s t : State} (h : exec i s = .next t) : t.pcLegal = true := by
  obtain ⟨-, hcanonical, hlimit⟩ := instructionPointerAdvancesByLength i s t h
  obtain ⟨-, -, hmode, -, -, hsegs, -, -, hcfg⟩ := exec_next_sameSetting h
  by_cases hm : s.mode = .long64
  · rw [State.pcLegal_long64 (hmode.trans hm), hcfg, hcanonical hm]
  · rw [State.pcLegal_of_ne_long64 (hmode ▸ hm), hsegs]
    exact hlimit hm

/-! The invariant of the machine. -/

theorem State.inv_iff (s : State) :
    s.inv = true ↔
      Memory.wf s.mem = true ∧ reservedFlagsOk s.rflags = true ∧ s.vmFlag = decide (s.mode = .v86) ∧
        s.pcLegal = true := by
  simp [State.inv, and_assoc]

/-- EFLAGS and the mode are kept, so memory and `pc` are all that a completed instruction has to answer for. -/
theorem exec_next_inv {i : Instr} {s t : State} (h : exec i s = .next t) (hs : s.inv = true) : t.inv = true := by
  obtain ⟨hmem, hreserved, hvm, -⟩ := s.inv_iff.mp hs
  obtain ⟨hrflags, -, hmode, -⟩ := exec_next_sameSetting h
  refine t.inv_iff.mpr ⟨exec_next_mem_wf h hmem, by rw [hrflags, hreserved], ?_, exec_next_pcLegal h⟩
  rw [State.vmFlag, hrflags, hmode]
  exact hvm

/-- A completed step is a completed instruction. -/
theorem exists_exec_of_step_next {s t : State} (h : step s = .next t) : ∃ i, exec i s = .next t := by
  obtain ⟨-, i, -, -, hexec⟩ := step_next h
  exact ⟨i, hexec⟩

/-- Settles O54: a completed step is a completed instruction, which keeps each part of the invariant. -/
theorem stepKeepsMachineInvariant : Obligations.StepKeepsMachineInvariant := by
  intro s t hs h
  obtain ⟨i, hexec⟩ := exists_exec_of_step_next h
  exact exec_next_inv hexec hs

/-! Runs. -/

/-- Of any machine: a run of `k + 1` completed steps is a completed step and then a run of `k`. -/
theorem core_run_succ {M : Host.Core} {k : Nat} {s t : M.State} (h : M.run (k + 1) s = .next t) :
    ∃ u, M.step s = .next u ∧ M.run k u = .next t := by
  unfold Host.Core.run at h
  split at h
  · next u hu => exact ⟨u, hu, h⟩
  · cases h
  · cases h

/-- What holds of no step, and of a completed instruction followed by `k` steps if it holds of those, holds of a run. -/
theorem core_run_induction {P : Nat → State → State → Prop} (zero : ∀ s, P 0 s s)
    (succ : ∀ k i s u t, exec i s = .next u → P k u t → P (k + 1) s t) :
    ∀ {k : Nat} {s t : State}, Sys2Proof.core.run k s = .next t → P k s t := by
  intro k
  induction k with
  | zero =>
    intro s t h
    cases h
    exact zero s
  | succ k ih =>
    intro s t h
    obtain ⟨u, hstep, hrun⟩ := core_run_succ (M := Sys2Proof.core) h
    obtain ⟨i, hexec⟩ := exists_exec_of_step_next hstep
    exact succ k i s u t hexec (ih hrun)

theorem core_run_sameSetting {k : Nat} {s t : State} (h : Sys2Proof.core.run k s = .next t) : s.sameSetting t :=
  core_run_induction (P := fun _ s t => s.sameSetting t) State.sameSetting_refl
    (fun _ _ _ _ _ hexec hrest => State.sameSetting_trans (exec_next_sameSetting hexec) hrest) h

theorem core_run_draws {k : Nat} {s t : State} (h : Sys2Proof.core.run k s = .next t) : t.draws = s.draws + k := by
  refine core_run_induction (P := fun k s t => t.draws = s.draws + k) (fun _ => rfl) ?_ h
  intro k i s u t hexec hrest
  rw [hrest, exec_next_draws hexec]
  omega

/-- Settles O30, by induction on the steps of the run. -/
theorem runKeepsFlagsAndSetting : Obligations.RunKeepsFlagsAndSetting :=
  fun _ _ _ h => ⟨core_run_sameSetting h, State.flags_eq_of_sameSetting (core_run_sameSetting h)⟩

/-- Settles O58: a reading is `Flags.read` of the bits of EFLAGS and the current draw, and each instruction takes one
draw. -/
theorem unfixedFlagIsDrawnAtEachReading : Obligations.UnfixedFlagIsDrawnAtEachReading := by
  refine ⟨fun s => ⟨rfl, rfl, rfl, rfl, rfl⟩, fun i s t h => ?_, fun k s t h => ?_⟩
  · obtain ⟨-, hunfixed, -⟩ := exec_next_sameSetting h
    exact ⟨exec_next_draws h, hunfixed⟩
  · obtain ⟨-, hunfixed, -⟩ := core_run_sameSetting h
    exact ⟨core_run_draws h, hunfixed⟩

end Sys2Proof.Machine

namespace Sys2Proof

/-! Byte registers (10_state.md R13). A write to one appends the new byte and the parts of the register it keeps; each part is read back. -/

theorem Reg8.insert_low_written (i : BitVec 4) (v : Byte) (x : Word) :
    ((Reg8.low i).insert v x).extractLsb' 0 8 = v :=
  BitVec.extractLsb'_append_eq_right

theorem Reg8.insert_low_above (i : BitVec 4) (v : Byte) (x : Word) :
    ((Reg8.low i).insert v x).extractLsb' 8 56 = x.extractLsb' 8 56 :=
  BitVec.extractLsb'_append_eq_left

theorem Reg8.insert_high_written (i : BitVec 2) (v : Byte) (x : Word) :
    ((Reg8.high i).insert v x).extractLsb' 8 8 = v :=
  (BitVec.extractLsb'_append_eq_of_le (le_refl 8)).trans BitVec.extractLsb'_append_eq_right

theorem Reg8.insert_high_above (i : BitVec 2) (v : Byte) (x : Word) :
    ((Reg8.high i).insert v x).extractLsb' 16 48 = x.extractLsb' 16 48 :=
  (BitVec.extractLsb'_append_eq_of_le (show 8 ≤ 16 by decide)).trans BitVec.extractLsb'_append_eq_left

theorem Reg8.insert_high_below (i : BitVec 2) (v : Byte) (x : Word) :
    ((Reg8.high i).insert v x).extractLsb' 0 8 = x.extractLsb' 0 8 :=
  BitVec.extractLsb'_append_eq_right

end Sys2Proof

namespace Sys2Proof.Machine

theorem State.reg_writeReg8_same (s : State) (k : Reg8) (v : Byte) :
    (s.writeReg8 k v).reg k.number = k.insert v (s.reg k.number) := by
  rw [State.reg_writeReg8, if_pos rfl]

theorem State.reg_writeReg8_other (s : State) {k : Reg8} (v : Byte) {j : BitVec 4} (h : j ≠ k.number) :
    (s.writeReg8 k v).reg j = s.reg j := by
  rw [State.reg_writeReg8, if_neg h]

/-- Settles O3: the register written holds `Reg8.insert`, whose parts are read back one by one. -/
theorem byteRegisterWriteKeepsOtherBits : Obligations.ByteRegisterWriteKeepsOtherBits := by
  refine ⟨fun s i v => ?_, fun s i v => ?_⟩
  · have hreg : (s.writeReg8 (.low i) v).reg i = (Reg8.low i).insert v (s.reg i) := s.reg_writeReg8_same (.low i) v
    rw [hreg]
    exact ⟨Reg8.insert_low_written .., Reg8.insert_low_above .., fun j hj => s.reg_writeReg8_other v hj, rfl⟩
  · have hreg : (s.writeReg8 (.high i) v).reg (0#2 ++ i) = (Reg8.high i).insert v (s.reg (0#2 ++ i)) :=
      s.reg_writeReg8_same (.high i) v
    rw [hreg]
    exact ⟨Reg8.insert_high_written .., Reg8.insert_high_above .., Reg8.insert_high_below ..,
      fun j hj => s.reg_writeReg8_other v hj, rfl⟩

/-! Refusals. -/

theorem State.storeRefusal_eq_some (s : State) (p : Word) (r : Refusal) :
    s.storeRefusal p = some r ↔
      (r = .storeToText ∧ s.inTextPhysical p = true) ∨
        (r = .notPlainMemory ∧ s.inTextPhysical p = false ∧ s.plainMemory p = false) := by
  cases ht : s.inTextPhysical p <;> cases hp : s.plainMemory p <;> simp [State.storeRefusal, ht, hp, eq_comm]

theorem State.storesTo_mem {s : State} {rex : Option Rex} {f : Form} {n : SegName} {ea : Word}
    (hd : destination s rex f = .mem n ea) (p : Word) : s.storesTo rex f = some p ↔ s.resolve n ea = .ok p := by
  cases hr : s.resolve n ea <;> simp [State.storesTo, hd, hr]

/-- Where an instruction's address is reached and resolves to a byte that may not be stored to, `exec` refuses so. -/
theorem exec_of_storeRefusal {i : Instr} {s : State} {n : SegName} {ea p : Word} {r : Refusal}
    (ha : s.addresses i n ea) (hp : s.storesTo i.rex i.form = some p) (hr : s.storeRefusal p = some r) :
    exec i s = .refused r := by
  obtain ⟨hissues, hlocked, hd⟩ := ha
  obtain ⟨hwf, hrange⟩ := (Bool.and_eq_true _ _).mp hissues
  have hres := (State.storesTo_mem hd p).mp hp
  simp [exec_eq_setByte, setByte, hwf, State.nextPc, hrange, hlocked, hd, State.complete, hres, hr]

/-- What `exec` refuses for, in the order of 40_setcc.md R82. -/
theorem exec_refused {i : Instr} {s : State} {r : Refusal} (h : exec i s = .refused r) :
    (r = .illFormed ∧ i.wf s.ctx = false) ∨
    (r = .pcWrap ∧ i.wf s.ctx = true ∧ s.pcInRange i.length = false) ∨
    (∃ p, s.storesTo i.rex i.form = some p ∧ s.storeRefusal p = some r) := by
  rw [exec_eq_setByte] at h
  obtain ⟨hwf, e⟩ | ⟨hwf, hrange, e⟩ | ⟨-, -, e⟩ | ⟨-, -, e⟩ :=
    setByte_cases (s.test i.condition) i.rex i.form s <;> rw [e] at h
  · cases h; exact .inl ⟨rfl, hwf⟩
  · cases h; exact .inr (.inl ⟨rfl, hwf, hrange⟩)
  · cases h
  · obtain ⟨k, -, c⟩ | ⟨n, ea, x, -, -, c⟩ | ⟨n, ea, p, r', hd, hres, hr, c⟩ | ⟨n, ea, p, -, -, -, c⟩ :=
      s.complete_cases (destination s i.rex i.form) (setValue (s.test i.condition))
        (s.pc + BitVec.ofNat 64 (i.form.length i.rex)) <;> rw [c] at h <;> cases h
    exact .inr (.inr ⟨p, (State.storesTo_mem hd p).mpr hres, hr⟩)

theorem exec_of_not_wf {i : Instr} {s : State} (h : i.wf s.ctx = false) : exec i s = .refused .illFormed := by
  simp only [Instr.wf] at h
  simp [exec_eq_setByte, setByte, h]

theorem exec_of_not_pcInRange {i : Instr} {s : State} (hwf : i.wf s.ctx = true)
    (h : s.pcInRange i.length = false) : exec i s = .refused .pcWrap := by
  simp only [Instr.wf, Instr.length] at hwf h
  simp [exec_eq_setByte, setByte, hwf, State.nextPc, h]

/-- Settles O48: the two refusals of a store are those of `State.storeRefusal`. -/
theorem refusalsOfWellFormedInstructions : Obligations.RefusalsOfWellFormedInstructions := by
  refine ⟨fun i s r h => ?_, fun i s => exec_of_not_wf, fun i s => exec_of_not_pcInRange,
    fun i s n ea p ha hp ht => exec_of_storeRefusal ha hp ?_,
    fun i s n ea p ha hp ht hplain => exec_of_storeRefusal ha hp ?_⟩
  · obtain hill | hwrap | ⟨p, hp, hr⟩ := exec_refused h
    · exact .inl hill
    · exact .inr (.inl hwrap)
    · exact .inr (.inr ⟨p, hp, (s.storeRefusal_eq_some p r).mp hr⟩)
  · exact (s.storeRefusal_eq_some p _).mpr (.inl ⟨rfl, ht⟩)
  · exact (s.storeRefusal_eq_some p _).mpr (.inr ⟨rfl, ht, hplain⟩)

/-! The state after reset (10_state.md R25). -/

/-- Settles O55, on the values of the reset state. -/
theorem resetSatisfiesMachineInvariant : Obligations.ResetSatisfiesMachineInvariant :=
  State.reset.inv_iff.mpr ⟨State.reset_mem_wf, by decide, by decide, by decide⟩

theorem State.reset_reg (i : BitVec 4) : State.reset.reg i = 0 := by
  simp [State.reg, State.reset]

theorem State.reset_seg {n : SegName} (h : n ≠ .cs) : State.reset.seg n = .dataReset := by
  cases n with
  | cs => exact absurd rfl h
  | _ => rfl

/-- With every status flag fixed at 0, a condition holds exactly where its number is odd (40_setcc.md R80). -/
theorem State.reset_test (n : BitVec 4) : State.reset.test (conditionOf n) = n.getLsbD 0 := by
  have hflags : State.reset.flags = ⟨false, false, false, false, false⟩ := State.flags_of_fixed rfl
  rw [State.test, hflags]
  revert n
  decide

/-- Settles O57, on the values of the reset state; the conditions need that no flag is unfixed. -/
theorem resetStateIsTheFamilys : Obligations.ResetStateIsTheFamilys := by
  refine ⟨rfl, rfl, rfl, rfl, rfl, by decide, rfl, rfl, rfl, fun n hn => ?_, fun i _ => State.reset_reg i, by decide,
    State.reset_test⟩
  rw [State.reset_seg hn]
  exact ⟨rfl, rfl, rfl, rfl⟩

end Sys2Proof.Machine

/-!
Proofs about addresses: from a segment and an effective address to a linear and then a physical one, and the checks
on the way (20_memory.md R38 to R41). Each check is one `↔` per mode, and `resolve` is the checks and then the
translation.
-/

namespace Sys2Proof.Machine

/-! Linear addresses (20_memory.md R38). -/

theorem State.linear_real_or_v86 {s : State} (hm : s.mode = .real ∨ s.mode = .v86) (n : SegName) (ea : Word) :
    s.linear n ea =
      if s.cfg.a20Masked then ((((s.seg n).base + ea).setWidth 32).setWidth 20).setWidth 64
      else (((s.seg n).base + ea).setWidth 32).setWidth 64 := by
  obtain hm | hm := hm <;> simp only [State.linear, hm]

theorem State.linear_prot_or_compat {s : State} (hm : s.mode = .prot ∨ s.mode = .compat) (n : SegName) (ea : Word) :
    s.linear n ea = (((s.seg n).base + ea).setWidth 32).setWidth 64 := by
  obtain hm | hm := hm <;> simp only [State.linear, hm]

theorem State.linear_long64_flat {s : State} (hm : s.mode = .long64) {n : SegName} (hfs : n ≠ .fs) (hgs : n ≠ .gs)
    (ea : Word) : s.linear n ea = ea := by
  cases n with
  | fs => exact absurd rfl hfs
  | gs => exact absurd rfl hgs
  | _ => simp only [State.linear, hm]

theorem State.linear_long64_based {s : State} (hm : s.mode = .long64) {n : SegName} (hn : n = .fs ∨ n = .gs)
    (ea : Word) : s.linear n ea = (s.seg n).base + ea := by
  obtain rfl | rfl := hn <;> simp only [State.linear, hm]

/-- A sum of two words cut to 32 bits, as a number. -/
theorem toNat_add_cut32 (base ea : Word) :
    (((base + ea).setWidth 32).setWidth 64).toNat = (base.toNat + ea.toNat) % 2 ^ 32 := by
  simp only [BitVec.toNat_setWidth, BitVec.toNat_add]
  omega

/-- A sum of two words cut to 32 bits and then to the 20 address lines of A20Masked, as a number. -/
theorem toNat_add_cut20 (base ea : Word) :
    ((((base + ea).setWidth 32).setWidth 20).setWidth 64).toNat = (base.toNat + ea.toNat) % 2 ^ 32 % 2 ^ 20 := by
  simp only [BitVec.toNat_setWidth, BitVec.toNat_add]
  omega

/-- Settles O11: the words of each mode's row of R38, read as numbers. -/
theorem linearAddressByMode : Obligations.LinearAddressByMode := by
  refine fun s n ea => ⟨fun hm => ?_, fun hm => ?_, fun hm hfs hgs => s.linear_long64_flat hm hfs hgs ea,
    fun hm hn => ?_⟩
  · rw [State.linear_real_or_v86 hm]
    split
    · exact toNat_add_cut20 ..
    · exact toNat_add_cut32 ..
  · rw [State.linear_prot_or_compat hm]
    exact toNat_add_cut32 ..
  · rw [State.linear_long64_based hm hn]
    exact BitVec.toNat_add ..

/-! Canonical form (20_memory.md R39). -/

/-- A word is the sign extension of its low `w + 1` bits exactly when the bits above bit `w` repeat it. -/
theorem signExtend_setWidth_eq_self_iff (w : Nat) (a : Word) :
    (a.setWidth (w + 1)).signExtend 64 = a ↔ ∀ i, w ≤ i → i < 64 → a.getLsbD i = a.getLsbD w := by
  have hbit : ∀ i < 64, ((a.setWidth (w + 1)).signExtend 64).getLsbD i = a.getLsbD (min i w) := by
    intro i hi
    by_cases hiw : i ≤ w
    · rw [BitVec.getLsbD_signExtend, if_pos (Nat.lt_succ_of_le hiw), Nat.min_eq_left hiw]
      simp [hi, hiw]
    · rw [BitVec.getLsbD_signExtend, if_neg (by omega), Nat.min_eq_right (Nat.le_of_not_le hiw)]
      simp [hi, BitVec.msb_eq_getLsbD_last]
  constructor
  · intro h i hwi hi
    have hi' := hbit i hi
    rwa [h, Nat.min_eq_right hwi] at hi'
  · intro h
    refine BitVec.eq_of_getLsbD_eq fun i hi => ?_
    rw [hbit i hi]
    obtain hiw | hwi := Nat.le_total i w
    · rw [Nat.min_eq_left hiw]
    · rw [Nat.min_eq_right hwi, h i hwi hi]

/-- As a signed number, the sign extension of 48 bits is the balanced remainder modulo 2^48: two ranges of addresses. -/
theorem signExtend_setWidth48_eq_self_iff (a : Word) :
    (a.setWidth 48).signExtend 64 = a ↔ a.toNat ≤ 0x00007FFFFFFFFFFF ∨ 0xFFFF800000000000 ≤ a.toNat := by
  have hsigned : ((a.setWidth 48).signExtend 64).toInt = Int.bmod a.toNat (2 ^ 48) := by
    rw [BitVec.toInt_signExtend_of_le (by decide), BitVec.toInt_setWidth]
  have ha := a.isLt
  rw [← BitVec.toInt_inj, hsigned, Int.bmod_eq_iff (by decide), BitVec.toInt_eq_toNat_cond]
  split <;> omega

theorem canonical_va48_iff (a : Word) : canonical .va48 a = true ↔ (a.setWidth 48).signExtend 64 = a := by
  simp [canonical]

theorem canonical_va57_iff (a : Word) : canonical .va57 a = true ↔ (a.setWidth 57).signExtend 64 = a := by
  simp [canonical]

/-! Segment limits (20_memory.md R41). -/

theorem SegReg.outsideLimit_expandUp {r : SegReg} (h : r.expandDown = false) (ea : Word) :
    r.outsideLimit ea = true ↔ r.limit.setWidth 64 < ea := by
  simp [SegReg.outsideLimit, h]

theorem SegReg.outsideLimit_expandDown {r : SegReg} (h : r.expandDown = true) (ea : Word) :
    r.outsideLimit ea = true ↔ ea ≤ r.limit.setWidth 64 ∨ r.upper < ea := by
  simp [SegReg.outsideLimit, h]

/-- A limit keeps its value as a 64-bit number. -/
theorem toNat_limit (l : BitVec 32) : (l.setWidth 64).toNat = l.toNat :=
  BitVec.toNat_setWidth_of_le (by decide)

theorem SegReg.toNat_upper (r : SegReg) : r.upper.toNat = if r.big then 0xFFFFFFFF else 0xFFFF := by
  cases h : r.big <;> simp [SegReg.upper, h]

/-- Settles O13: the words of the two checks of R41, compared as numbers. -/
theorem offsetOutsideSegmentLimit : Obligations.OffsetOutsideSegmentLimit := by
  refine fun r ea => ⟨fun hup => ?_, fun hdown => ?_⟩
  · rw [SegReg.outsideLimit_expandUp hup, BitVec.lt_def, toNat_limit]
  · rw [SegReg.outsideLimit_expandDown hdown, BitVec.le_def, BitVec.lt_def, toNat_limit, SegReg.toNat_upper]

/-! The check before the write, by mode (20_memory.md R41; 60_exceptions.md R132 to R144). -/

theorem SegReg.isNull_eq_false_iff (r : SegReg) : r.isNull = false ↔ 4 ≤ r.selector.toNat := by
  have hsel := r.selector.isLt
  simp only [SegReg.isNull, beq_eq_false_iff_ne, ne_eq, ← BitVec.toNat_inj, BitVec.extractLsb'_toNat,
    Nat.shiftRight_eq_div_pow, BitVec.toNat_ofNat]
  omega

theorem State.nonWritable_eq_false_iff (s : State) (n : SegName) :
    s.nonWritable n = false ↔ n ≠ .cs ∧ (s.seg n).writable = true := by
  simp [State.nonWritable]

/-- A check that only chooses between two exceptions always raises one. -/
theorem ite_some_ne_none {c : Prop} [Decidable c] (x y : Fault) : (if c then some x else some y) ≠ none := by
  split <;> exact Option.some_ne_none _

theorem State.segmentFault_long64 {s : State} (hm : s.mode = .long64) (n : SegName) (ea : Word) :
    s.segmentFault n ea = none ↔ canonical s.cfg.vaBits (s.linear n ea) = true := by
  cases hc : canonical s.cfg.vaBits (s.linear n ea) with
  | true => simp [State.segmentFault, hm, hc]
  | false => simp [State.segmentFault, hm, hc, ite_some_ne_none]

theorem State.segmentFault_prot_or_compat {s : State} (hm : s.mode = .prot ∨ s.mode = .compat) (n : SegName)
    (ea : Word) :
    s.segmentFault n ea = none ↔
      s.nonWritable n = false ∧ (s.seg n).outsideLimit ea = false ∧ (n = .ss ∨ (s.seg n).isNull = false) := by
  by_cases hn : n = .ss
  · subst hn
    obtain hm | hm := hm <;> cases hl : (s.seg .ss).outsideLimit ea <;> simp [State.segmentFault, hm, hl]
  · cases hw : s.nonWritable n with
    | true => obtain hm | hm := hm <;> simp [State.segmentFault, hm, hn, hw]
    | false =>
      obtain ⟨hcs, -⟩ := (s.nonWritable_eq_false_iff n).mp hw
      obtain hm | hm := hm <;> simp [State.segmentFault, hm, hn, hw, hcs]

theorem State.segmentFault_real_or_v86 {s : State} (hm : s.mode = .real ∨ s.mode = .v86) (n : SegName) (ea : Word) :
    s.segmentFault n ea = none ↔ (s.seg n).outsideLimit ea = false := by
  obtain hm | hm := hm <;> cases hl : (s.seg n).outsideLimit ea <;> simp [State.segmentFault, hm, hl, ite_some_ne_none]

/-- Settles O12: both widths are one fact about sign extension, and 64-bit mode checks nothing else. -/
theorem canonicalAddresses : Obligations.CanonicalAddresses := by
  refine ⟨fun a => ⟨?_, ?_, ?_⟩, fun s n ea hm => s.segmentFault_long64 hm n ea⟩
  · exact (canonical_va48_iff a).trans (signExtend_setWidth_eq_self_iff 47 a)
  · exact (canonical_va57_iff a).trans (signExtend_setWidth_eq_self_iff 56 a)
  · exact (canonical_va48_iff a).trans (signExtend_setWidth48_eq_self_iff a)

/-! Translation (20_memory.md R40). -/

theorem State.translate_paging_off {s : State} (h : s.pagingOn = false) (a : Word) (write : Bool) :
    s.translate a write = .ok a := by
  simp [State.translate, h]

theorem State.translate_paging_on {s : State} (h : s.pagingOn = true) (a : Word) (write : Bool) :
    s.translate a write = translateBy s.cfg.translations a write s.user := by
  simp [State.translate, h]

/-- Entries for other accesses do not matter in front of a table. -/
theorem translateBy_append_of_no_match {before : List TranslateEntry} {a : Word} {write user : Bool}
    (h : ∀ x ∈ before, ¬(x.linear = a ∧ x.write = write ∧ x.user = user)) (table : List TranslateEntry) :
    translateBy (before ++ table) a write user = translateBy table a write user := by
  induction before with
  | nil => rfl
  | cons x xs ih =>
    obtain ⟨hx, hxs⟩ := List.forall_mem_cons.mp h
    rw [List.cons_append, translateBy, if_neg hx, ih hxs]

theorem translateBy_of_no_match {table : List TranslateEntry} {a : Word} {write user : Bool}
    (h : ∀ x ∈ table, ¬(x.linear = a ∧ x.write = write ∧ x.user = user)) :
    translateBy table a write user = .ok a := by
  simpa [translateBy] using translateBy_append_of_no_match h []

theorem translateBy_head (e : TranslateEntry) (after : List TranslateEntry) :
    translateBy (e :: after) e.linear e.write e.user = e.result := by
  simp [translateBy]

/-! The destination byte of a memory form. -/

theorem State.resolve_eq_ok_iff (s : State) (n : SegName) (ea p : Word) :
    s.resolve n ea = .ok p ↔ s.segmentFault n ea = none ∧ s.translate (s.linear n ea) true = .ok p := by
  obtain ⟨x, hf, hr⟩ | ⟨code, hf, ht, hr⟩ | ⟨q, hf, ht, hr⟩ := s.resolve_cases n ea
  · simp [hf, hr]
  · simp [hf, ht, hr]
  · simp [hf, ht, hr]

/-- Settles O34: the address is stored to where the mode's check finds nothing and the translation answers it. -/
theorem addressesThatPassTheChecks : Obligations.AddressesThatPassTheChecks := by
  refine ⟨fun s rex f n ea p hd ht => ?_,
    fun s a write => ⟨fun h => s.translate_paging_off h a write, fun h => s.translate_paging_on h a write⟩,
    fun before after e h => ?_, fun table a write user h => translateBy_of_no_match h⟩
  · have hstores (hfault : s.segmentFault n ea = none) : s.storesTo rex f = some p :=
      (State.storesTo_mem hd p).mpr ((s.resolve_eq_ok_iff n ea p).mpr ⟨hfault, ht⟩)
    refine ⟨fun hm hcanonical => hstores ((s.segmentFault_long64 hm n ea).mpr hcanonical),
      fun hm hcs hwritable hlimit hnull => hstores ((s.segmentFault_prot_or_compat hm n ea).mpr ?_),
      fun hm hlimit => hstores ((s.segmentFault_real_or_v86 hm n ea).mpr hlimit), fun hoff => ?_, fun hon => ?_⟩
    · exact ⟨(s.nonWritable_eq_false_iff n).mpr ⟨hcs, hwritable⟩, hlimit,
        hnull.imp_right (s.seg n).isNull_eq_false_iff.mpr⟩
    · rw [s.translate_paging_off hoff] at ht
      exact (TranslateResult.ok.inj ht).symm
    · rw [← s.translate_paging_on hon, ht]
  · rw [translateBy_append_of_no_match h, translateBy_head]

end Sys2Proof.Machine

/-!
Proofs about the store of a SETcc: it reads nothing of its destination, and it never lands in the program text
(20_memory.md R34, R45).
-/

namespace Sys2Proof.Machine

/-! A second write to the same byte replaces the first. -/

theorem Reg8.insert_insert (k : Reg8) (v w : Byte) (x : Word) : k.insert v (k.insert w x) = k.insert v x := by
  cases k with
  | low i => exact congrArg (· ++ v) (Reg8.insert_low_above i w x)
  | high i =>
    exact congrArg₂ (fun above below : BitVec _ => above ++ v ++ below) (Reg8.insert_high_above i w x)
      (Reg8.insert_high_below i w x)

theorem State.setReg_setReg_same (s : State) (i : BitVec 4) (v w : Word) :
    (s.setReg i w).setReg i v = s.setReg i v := by
  simp [State.setReg]

theorem State.writeReg8_writeReg8_same (s : State) (k : Reg8) (v w : Byte) :
    (s.writeReg8 k w).writeReg8 k v = s.writeReg8 k v := by
  rw [State.writeReg8, State.reg_writeReg8_same, Reg8.insert_insert]
  exact State.setReg_setReg_same ..

theorem State.writeByte_writeByte_same (s : State) (p : Word) (v w : Byte) :
    (s.writeByte p w).writeByte p v = s.writeByte p v := by
  simp [State.writeByte, Memory.write_write_same]

/-! An instruction that completes, from what its destination is (40_setcc.md R81, R82). -/

theorem exec_of_reg {i : Instr} {s : State} {k : Reg8} (hissues : s.issues i.rex i.form = true)
    (hlocked : i.form.locked = false) (hd : destination s i.rex i.form = .reg k) :
    exec i s = .next ((s.writeReg8 k (setValue (s.test i.condition))).retire (s.pc + BitVec.ofNat 64 i.length)) := by
  obtain ⟨hwf, hrange⟩ := (Bool.and_eq_true _ _).mp hissues
  simp [exec_eq_setByte, setByte, hwf, State.nextPc, hrange, hlocked, hd, State.complete, Instr.length]

theorem exec_of_store {i : Instr} {s : State} {n : SegName} {ea p : Word} (ha : s.addresses i n ea)
    (hp : s.resolve n ea = .ok p) (hr : s.storeRefusal p = none) :
    exec i s = .next ((s.writeByte p (setValue (s.test i.condition))).retire (s.pc + BitVec.ofNat 64 i.length)) := by
  obtain ⟨hissues, hlocked, hd⟩ := ha
  obtain ⟨hwf, hrange⟩ := (Bool.and_eq_true _ _).mp hissues
  simp [exec_eq_setByte, setByte, hwf, State.nextPc, hrange, hlocked, hd, State.complete, hp, hr, Instr.length]

/-- The operand of a register form is that register in every state. -/
theorem destination_of_reg {f : Form} {rm : BitVec 3} (h : f.rm = .reg rm) (s : State) (rex : Option Rex) :
    destination s rex f = .reg (byteRegister rex rm) := by
  simp [destination, h]

theorem State.storesTo_reg {s : State} {rex : Option Rex} {f : Form} {k : Reg8} (hd : destination s rex f = .reg k) :
    s.storesTo rex f = none := by
  simp [State.storesTo, hd]

/-- The checks and the address of a store depend on nothing that a byte of memory holds. -/
theorem State.addresses_writeByte {s : State} {i : Instr} {n : SegName} {ea : Word} (p : Word) (v : Byte)
    (h : s.addresses i n ea) : (s.writeByte p v).addresses i n ea := h

theorem State.resolve_writeByte (s : State) (p : Word) (v : Byte) (n : SegName) (ea : Word) :
    (s.writeByte p v).resolve n ea = s.resolve n ea := rfl

theorem State.storeRefusal_writeByte (s : State) (p : Word) (v : Byte) (q : Word) :
    (s.writeByte p v).storeRefusal q = s.storeRefusal q := rfl

theorem State.issues_writeReg8 (s : State) (k : Reg8) (v : Byte) (rex : Option Rex) (f : Form) :
    (s.writeReg8 k v).issues rex f = s.issues rex f := rfl

/-- Settles O32: the other byte passes the same checks, and the write of the instruction replaces it. -/
theorem destinationIsWrittenNotRead : Obligations.DestinationIsWrittenNotRead := by
  refine ⟨fun i s t p v h hp => ?_, fun i s t rm v h hrm => ?_⟩
  · obtain ⟨hissues, hlocked, ⟨k, hd, -⟩ | ⟨n, ea, q, hd, hres, hr, rfl⟩⟩ := exec_next h
    · rw [State.storesTo_reg hd] at hp
      cases hp
    · obtain rfl : q = p := Except.ok.inj (hres.symm.trans ((State.storesTo_mem hd p).mp hp))
      rw [exec_of_store (State.addresses_writeByte q v ⟨hissues, hlocked, hd⟩)
        ((s.resolve_writeByte q v n ea).trans hres) ((s.storeRefusal_writeByte q v q).trans hr),
        State.writeByte_writeByte_same, State.writeByte_test, State.writeByte_pc]
  · have hd (u : State) : destination u i.rex i.form = .reg (byteRegister i.rex rm) := destination_of_reg hrm u i.rex
    obtain ⟨hissues, hlocked, -⟩ := exec_next h
    rw [exec_of_reg hissues hlocked (hd s)] at h
    rw [exec_of_reg ((s.issues_writeReg8 ..).trans hissues) hlocked (hd _),
      State.writeReg8_writeReg8_same, State.writeReg8_test, State.writeReg8_pc, h]

/-! The program text (20_memory.md R45, R47). -/

theorem State.inText_iff (s : State) (a : Word) :
    s.inText a = true ↔ s.text.base.toNat ≤ a.toNat ∧ a.toNat < s.text.base.toNat + s.text.length := by
  simp [State.inText]

/-- An offset in the text is that of one of its bytes, counted from the base. -/
theorem State.exists_offset_of_inText {s : State} {a : Word} (h : s.inText a = true) :
    ∃ k < s.text.length, a = s.text.base + BitVec.ofNat 64 k := by
  obtain ⟨hle, hlt⟩ := (s.inText_iff a).mp h
  refine ⟨a.toNat - s.text.base.toNat, by omega, ?_⟩
  have ha := a.isLt
  bv_omega

theorem State.inTextPhysical_iff (s : State) (p : Word) :
    s.inTextPhysical p = true ↔
      ∃ k < s.text.length, s.textAddress (s.text.base + BitVec.ofNat 64 k) = some p := by
  simp [State.inTextPhysical, State.textByteAt]

theorem State.inTextPhysical_of_inText {s : State} {a q : Word} (ha : s.inText a = true)
    (hq : s.textAddress a = some q) : s.inTextPhysical q = true := by
  obtain ⟨k, hk, rfl⟩ := State.exists_offset_of_inText ha
  exact (s.inTextPhysical_iff q).mpr ⟨k, hk, hq⟩

/-- What is fetched: inside the text, the byte where the text has one. -/
theorem State.fetchByte_eq (s : State) (a : Word) :
    s.fetchByte a = if s.inText a then (s.textAddress a).bind s.readByte else none := by
  unfold State.fetchByte
  cases s.textAddress a <;> rfl

/-- A store outside the text changes nothing that is fetched. -/
theorem State.fetchByte_writeByte {s : State} {p : Word} (h : s.inTextPhysical p = false) (v : Byte) (a : Word) :
    (s.writeByte p v).fetchByte a = s.fetchByte a := by
  rw [State.fetchByte_eq, State.fetchByte_eq, State.writeByte_inText, State.writeByte_textAddress]
  cases ha : s.inText a with
  | false => rfl
  | true =>
    cases hq : s.textAddress a with
    | none => rfl
    | some q =>
      have hne : q ≠ p := by
        rintro rfl
        rw [State.inTextPhysical_of_inText ha hq] at h
        cases h
      exact s.readByte_writeByte_other v hne

theorem State.fetchByte_retire (s : State) (pc' a : Word) : (s.retire pc').fetchByte a = s.fetchByte a := rfl

theorem State.fetchByte_writeReg8 (s : State) (k : Reg8) (v : Byte) (a : Word) :
    (s.writeReg8 k v).fetchByte a = s.fetchByte a := rfl

theorem State.not_inTextPhysical_of_storeRefusal {s : State} {p : Word} (h : s.storeRefusal p = none) :
    s.inTextPhysical p = false := by
  by_contra ht
  have hrefused := (s.storeRefusal_eq_some p .storeToText).mpr (.inl ⟨rfl, by simpa using ht⟩)
  rw [h] at hrefused
  cases hrefused

theorem exec_next_fetchByte {i : Instr} {s t : State} (h : exec i s = .next t) (a : Word) :
    t.fetchByte a = s.fetchByte a := by
  obtain ⟨-, -, ⟨k, -, rfl⟩ | ⟨n, ea, p, -, -, hr, rfl⟩⟩ := exec_next h
  · rw [State.fetchByte_retire, State.fetchByte_writeReg8]
  · rw [State.fetchByte_retire, State.fetchByte_writeByte (State.not_inTextPhysical_of_storeRefusal hr)]

/-- Settles O47: a store into the text is refused, so a completed one lies outside it. -/
theorem storeIntoProgramTextIsRefused : Obligations.StoreIntoProgramTextIsRefused := by
  refine ⟨fun i s n ea p k ha hp hk hkp => exec_of_storeRefusal ha hp ?_, fun s t h a => ?_⟩
  · exact (s.storeRefusal_eq_some p _).mpr (.inl ⟨rfl, (s.inTextPhysical_iff p).mpr ⟨k, hk, hkp⟩⟩)
  · obtain ⟨i, hexec⟩ := exists_exec_of_step_next h
    exact exec_next_fetchByte hexec a

end Sys2Proof.Machine

/-!
Proofs about the decoder: it reads the bytes of a well-formed instruction back as that instruction (30_encoding.md R50
to R70), and of a proper part of them it says only that bytes are missing.

The decoder is taken apart into the stages of R70, each a reader that consumes bytes (`decode_eq_stages`). Each stage
reads back what the encoder wrote for it; and each stage, unless bytes are missing, answers the same when more bytes
follow (`Stable`). The second makes the answer on a proper part of an encoding `truncated`, without a look at the forms.
-/

namespace Sys2Proof

/-! Readers. -/

/-- A reader of bytes: a value and the bytes after it, or a refusal. -/
abbrev Reader (α : Type) := List Byte → Except DecodeRefusal (α × List Byte)

/-- Unless bytes are missing, the reader answers the same when the bytes `x` are appended, and leaves them over. -/
def Stable {α : Type} (read : Reader α) : Prop :=
  ∀ bs x, read bs ≠ .error .truncated → read (bs ++ x) = (read bs).map (Prod.map id (· ++ x))

/-- One reader and then another on the bytes it leaves. -/
def Reader.andThen {α β : Type} (read : Reader α) (next : α → Reader β) : Reader β := fun bs =>
  (read bs).bind fun r => next r.1 r.2

theorem Stable.andThen {α β : Type} {read : Reader α} {next : α → Reader β} (hread : Stable read)
    (hnext : ∀ v, Stable (next v)) : Stable (read.andThen next) := by
  intro bs x h
  cases hr : read bs with
  | error e =>
    simp only [Reader.andThen, hr, Except.bind] at h ⊢
    rw [hread bs x (by simpa [hr] using h), hr]
    rfl
  | ok r =>
    simp only [Reader.andThen, hr, Except.bind] at h ⊢
    rw [hread bs x (by simp [hr]), hr]
    exact hnext r.1 r.2 x h

theorem stable_ok {α : Type} (v : α) : Stable fun bs => .ok (v, bs) := fun _ _ _ => rfl

theorem stable_error {α : Type} (e : DecodeRefusal) : Stable (α := α) fun _ => .error e := fun _ _ _ => rfl

/-- A reader of one byte and what follows it is stable if it is so for each byte. -/
theorem stable_of_cons {α : Type} {read : Reader α} (hnil : read [] = .error .truncated)
    (hcons : ∀ b, Stable fun bs => read (b :: bs)) : Stable read := by
  intro bs x h
  cases bs with
  | nil => exact absurd hnil h
  | cons b bs => exact hcons b bs x h

theorem stable_ite {α : Type} {c : Prop} [Decidable c] {yes no : Reader α} (hyes : Stable yes) (hno : Stable no) :
    Stable fun bs => if c then yes bs else no bs := by
  by_cases h : c
  · simpa [h] using hyes
  · simpa [h] using hno

/-! The stages of the decoder are stable. -/

theorem stable_take8 : Stable take8 := stable_of_cons rfl fun b => stable_ok b

theorem stable_take16 : Stable take16 := stable_of_cons rfl fun _ => stable_of_cons rfl fun _ => stable_ok _

theorem stable_take32 : Stable take32 :=
  stable_of_cons rfl fun _ => stable_of_cons rfl fun _ => stable_of_cons rfl fun _ => stable_of_cons rfl fun _ =>
    stable_ok _

theorem stable_withDisp {α : Type} {wrap : α → RmOperand} {read : Reader α} (h : Stable read) :
    Stable fun bs => withDisp wrap (read bs) := by
  have heq : (fun bs => withDisp wrap (read bs)) = read.andThen fun d bs => .ok (wrap d, bs) := by
    funext bs
    simp only [Reader.andThen]
    cases read bs <;> rfl
  rw [heq]
  exact h.andThen fun d => stable_ok (wrap d)

theorem stable_decodeMem16 (mod : BitVec 2) (rm : BitVec 3) : Stable (decodeMem16 mod rm) :=
  stable_ite (stable_ite (stable_withDisp stable_take16) (stable_ok _))
    (stable_ite (stable_withDisp stable_take8) (stable_withDisp stable_take16))

theorem stable_decodeSib (mod : BitVec 2) : Stable (decodeSib mod) :=
  stable_of_cons rfl fun _ =>
    stable_ite (stable_ite (stable_withDisp stable_take32) (stable_ok _))
      (stable_ite (stable_withDisp stable_take8) (stable_withDisp stable_take32))

theorem stable_decodeMem32 (mod : BitVec 2) (rm : BitVec 3) : Stable (decodeMem32 mod rm) :=
  stable_ite (stable_decodeSib mod)
    (stable_ite (stable_ite (stable_withDisp stable_take32) (stable_ok _))
      (stable_ite (stable_withDisp stable_take8) (stable_withDisp stable_take32)))

theorem stable_decodeRm (a : AddrSize) (modrm : Byte) : Stable (decodeRm a modrm) :=
  stable_ite (stable_ok _) (stable_ite (stable_decodeMem16 _ _) (stable_decodeMem32 _ _))

theorem stable_decodeOpcode : Stable decodeOpcode :=
  stable_of_cons rfl fun b => by
    by_cases hb : b = 0x0F#8
    · subst hb
      exact stable_of_cons rfl fun op => stable_ite (stable_ok _) (stable_error _)
    · simpa [decodeOpcode, hb] using stable_error _

/-! The loop over the legacy prefixes, by its next byte. -/

theorem decodePrefixes_of_end {b : Byte} (hb : prefixOfByte b = none) (hadmitted : isRefusedPrefix b = false)
    (seen : List LegacyPrefix) (bs : List Byte) : decodePrefixes seen (b :: bs) = .ok ([], b :: bs) := by
  simp [decodePrefixes, hb, hadmitted]

theorem decodePrefixes_of_refused {b : Byte} (hb : prefixOfByte b = none) (hrefused : isRefusedPrefix b = true)
    (seen : List LegacyPrefix) (bs : List Byte) : decodePrefixes seen (b :: bs) = .error .undefinedPrefix := by
  simp [decodePrefixes, hb, hrefused]

theorem decodePrefixes_of_repeated {b : Byte} {p : LegacyPrefix} {seen : List LegacyPrefix} {e : DecodeRefusal}
    (hb : prefixOfByte b = some p) (hp : repeatRefusal p seen = some e) (bs : List Byte) :
    decodePrefixes seen (b :: bs) = .error e := by
  simp [decodePrefixes, hb, hp]

theorem decodePrefixes_of_new {b : Byte} {p : LegacyPrefix} {seen : List LegacyPrefix} (hb : prefixOfByte b = some p)
    (hp : repeatRefusal p seen = none) (bs : List Byte) :
    decodePrefixes seen (b :: bs) = (decodePrefixes (p :: seen) bs).map (Prod.map (p :: ·) id) := by
  simp only [decodePrefixes, hb, hp]
  cases decodePrefixes (p :: seen) bs <;> rfl

/-- A byte that repeats or ends the prefixes is decided at once; after any other the rest of the bytes decides. -/
theorem stable_decodePrefixes (seen : List LegacyPrefix) : Stable (decodePrefixes seen) := by
  intro bs x
  induction bs generalizing seen with
  | nil => exact fun h => absurd rfl h
  | cons b bs ih =>
    rw [List.cons_append]
    cases hb : prefixOfByte b with
    | none =>
      cases hr : isRefusedPrefix b with
      | true =>
        rw [decodePrefixes_of_refused hb hr, decodePrefixes_of_refused hb hr]
        exact fun _ => rfl
      | false =>
        rw [decodePrefixes_of_end hb hr, decodePrefixes_of_end hb hr]
        exact fun _ => rfl
    | some p =>
      cases hp : repeatRefusal p seen with
      | some e =>
        rw [decodePrefixes_of_repeated hb hp, decodePrefixes_of_repeated hb hp]
        exact fun _ => rfl
      | none =>
        rw [decodePrefixes_of_new hb hp, decodePrefixes_of_new hb hp]
        intro h
        rw [ih (p :: seen) fun htruncated => h (by rw [htruncated]; rfl)]
        cases decodePrefixes (p :: seen) bs <;> rfl

/-! The stages of the decoding procedure (30_encoding.md R70). -/

/-- The last stage: the verdict on the segment override and on the length, once all bytes are read. -/
def admitForm (c : Ctx) (rex : Option Rex) (n : BitVec 4) (f : Form) : Reader Instr := fun rest =>
  match overrideRefusal c f with
  | some e => .error e
  | none =>
    if f.length rex ≤ maxInsnLen then .ok (.ofCondition (conditionOf n) rex f, rest) else .error .tooLong

/-- The ModR/M byte and the operand, after the opcode. -/
def decodeOperand (c : Ctx) (ps : List LegacyPrefix) (rex : Option Rex) (n : BitVec 4) : Reader Instr
  | [] => .error .truncated
  | modrm :: bs =>
    (Reader.andThen (decodeRm (addrSize c (ps.contains .addressSize)) modrm) fun rm =>
      admitForm c rex n { prefixes := ps, reg := modrm.extractLsb' 3 3, rm := rm }) bs

/-- All that follows the legacy prefixes. -/
def decodeAfterPrefixes (c : Ctx) (ps : List LegacyPrefix) : Reader Instr := fun bs =>
  (Reader.andThen decodeOpcode (decodeOperand c ps (decodeRex c bs).1)) (decodeRex c bs).2

/-- The stages are the decoder. -/
theorem decode_eq_stages (c : Ctx) : decode c = Reader.andThen (decodePrefixes []) (decodeAfterPrefixes c) := by
  funext bs
  simp only [decode, Reader.andThen, decodeAfterPrefixes]
  cases decodePrefixes [] bs with
  | error e => rfl
  | ok r =>
    obtain ⟨ps, bs1⟩ := r
    simp only [Except.bind]
    cases decodeOpcode (decodeRex c bs1).2 with
    | error e => rfl
    | ok r =>
      obtain ⟨n, bs2⟩ := r
      cases bs2 with
      | nil => rfl
      | cons modrm bs3 =>
        simp only [decodeOperand, Reader.andThen]
        cases decodeRm (addrSize c (ps.contains .addressSize)) modrm bs3 <;> rfl

theorem stable_admitForm (c : Ctx) (rex : Option Rex) (n : BitVec 4) (f : Form) : Stable (admitForm c rex n f) := by
  unfold admitForm
  cases overrideRefusal c f with
  | some e => exact stable_error e
  | none => exact stable_ite (stable_ok _) (stable_error _)

theorem stable_decodeOperand (c : Ctx) (ps : List LegacyPrefix) (rex : Option Rex) (n : BitVec 4) :
    Stable (decodeOperand c ps rex n) :=
  stable_of_cons rfl fun modrm => (stable_decodeRm _ modrm).andThen fun _ => stable_admitForm _ _ _ _

theorem stable_decodeAfterPrefixes (c : Ctx) (ps : List LegacyPrefix) : Stable (decodeAfterPrefixes c ps) := by
  refine stable_of_cons rfl fun b => ?_
  have hopcode (rex : Option Rex) := stable_decodeOpcode.andThen (stable_decodeOperand c ps rex)
  by_cases hrex : c.mode = .long64 ∧ isRexByte b = true
  · simpa only [decodeAfterPrefixes, decodeRex, if_pos hrex] using hopcode (some (rexOfByte b))
  · intro bs x
    simpa only [decodeAfterPrefixes, decodeRex, if_neg hrex, List.cons_append] using hopcode none (b :: bs) x

/-- The decoder decides by the bytes it takes. -/
theorem stable_decode (c : Ctx) : Stable (decode c) := by
  rw [decode_eq_stages]
  exact (stable_decodePrefixes []).andThen (stable_decodeAfterPrefixes c)

/-- Where a reader takes exactly the bytes `w`, a proper part of them is missing bytes: whatever else it answered there
it would answer on `w` too. -/
theorem Stable.take_eq_truncated {α : Type} {read : Reader α} (hread : Stable read) {w : List Byte} {v : α}
    (hw : read w = .ok (v, [])) {m : Nat} (hm : m < w.length) : read (w.take m) = .error .truncated := by
  by_contra h
  have happend := hread (w.take m) (w.drop m) h
  rw [List.take_append_drop, hw] at happend
  cases hr : read (w.take m) with
  | error e => rw [hr] at happend; cases happend
  | ok r =>
    rw [hr] at happend
    have hrest : [] = r.2 ++ w.drop m := congrArg Prod.snd (Except.ok.inj happend)
    have hlength := congrArg List.length hrest
    simp only [List.length_nil, List.length_append, List.length_drop] at hlength
    omega

end Sys2Proof

/-!
Proofs about the decoder on the encoder's bytes (30_encoding.md R50 to R70): each field, and then each stage of the
decoder, reads back what the encoder wrote.
-/

namespace Sys2Proof

/-! Fields of bytes (30_encoding.md R54, R58, R61, R64). -/

@[simp] theorem modrmByte_mod (mod : BitVec 2) (reg rm : BitVec 3) : (modrmByte mod reg rm).extractLsb' 6 2 = mod :=
  (BitVec.extractLsb'_append_eq_of_le (show 3 ≤ 6 by decide)).trans BitVec.extractLsb'_append_eq_left

@[simp] theorem modrmByte_reg (mod : BitVec 2) (reg rm : BitVec 3) : (modrmByte mod reg rm).extractLsb' 3 3 = reg :=
  (BitVec.extractLsb'_append_eq_of_le (le_refl 3)).trans BitVec.extractLsb'_append_eq_right

@[simp] theorem modrmByte_rm (mod : BitVec 2) (reg rm : BitVec 3) : (modrmByte mod reg rm).extractLsb' 0 3 = rm :=
  BitVec.extractLsb'_append_eq_right

@[simp] theorem sibByte_scale (scale : BitVec 2) (index base : BitVec 3) :
    (sibByte scale index base).extractLsb' 6 2 = scale := modrmByte_mod scale index base

@[simp] theorem sibByte_index (scale : BitVec 2) (index base : BitVec 3) :
    (sibByte scale index base).extractLsb' 3 3 = index := modrmByte_reg scale index base

@[simp] theorem sibByte_base (scale : BitVec 2) (index base : BitVec 3) :
    (sibByte scale index base).extractLsb' 0 3 = base := modrmByte_rm scale index base

theorem isRexByte_byte (r : Rex) : isRexByte r.byte = true := by
  obtain ⟨w, r, x, b⟩ := r
  revert w r x b
  decide

theorem rexOfByte_byte (r : Rex) : rexOfByte r.byte = r := by
  obtain ⟨w, r, x, b⟩ := r
  revert w r x b
  decide

theorem prefixOfByte_byte (p : LegacyPrefix) : prefixOfByte p.byte = some p := by
  cases p with
  | lock => rfl
  | segment n => cases n <;> rfl
  | addressSize => rfl

theorem conditionOf_number (c : Condition) : conditionOf c.number = c := by
  cases c <;> rfl

theorem base16Of_number (b : Base16) : base16Of b.number = b := by
  cases b <;> rfl

theorem Base16.number_eq_six_iff (b : Base16) : b.number = 6#3 ↔ b = .bp := by
  cases b <;> decide

theorem take16_bytes16 (d : BitVec 16) (rest : List Byte) : take16 (bytes16 d ++ rest) = .ok (d, rest) := by
  have hd : d.extractLsb' 8 8 ++ d.extractLsb' 0 8 = d := BitVec.extractLsb'_append_extractLsb'
  exact congrArg (fun v => Except.ok (v, rest)) hd

theorem take32_bytes32 (d : BitVec 32) (rest : List Byte) : take32 (bytes32 d ++ rest) = .ok (d, rest) := by
  have hd : d.extractLsb' 24 8 ++ d.extractLsb' 16 8 ++ d.extractLsb' 8 8 ++ d.extractLsb' 0 8 = d := by
    rw [BitVec.extractLsb'_append_extractLsb'_eq_extractLsb' (show 24 = 16 + 8 from rfl),
      BitVec.extractLsb'_append_extractLsb'_eq_extractLsb' (show 16 = 8 + 8 from rfl),
      BitVec.extractLsb'_append_extractLsb'_eq_extractLsb' (show 8 = 0 + 8 from rfl)]
    exact BitVec.extractLsb'_eq_self
  exact congrArg (fun v => Except.ok (v, rest)) hd

/-! The legacy prefixes. Prefixes of one kind exclude each other, and there are three kinds. -/

/-- The kind of one of the legacy prefixes, as `LegacyPrefix.sameKind` compares it (`sameKind_iff`). -/
def LegacyPrefix.kind : LegacyPrefix → Fin 3
  | .lock => 0
  | .segment _ => 1
  | .addressSize => 2

theorem LegacyPrefix.sameKind_iff (p q : LegacyPrefix) : p.sameKind q = true ↔ p.kind = q.kind := by
  cases p <;> cases q <;> simp [LegacyPrefix.sameKind, LegacyPrefix.kind]

theorem any_sameKind_iff (p : LegacyPrefix) (ps : List LegacyPrefix) :
    ps.any p.sameKind = true ↔ p.kind ∈ ps.map LegacyPrefix.kind := by
  simp only [List.any_eq_true, LegacyPrefix.sameKind_iff, List.mem_map, eq_comm (a := p.kind)]

theorem prefixesOk_iff (ps : List LegacyPrefix) : prefixesOk ps = true ↔ (ps.map LegacyPrefix.kind).Nodup := by
  induction ps with
  | nil => simp [prefixesOk]
  | cons p ps ih =>
    rw [prefixesOk, Bool.and_eq_true, ih, List.map_cons, List.nodup_cons, ← any_sameKind_iff, Bool.not_eq_true,
      Bool.not_eq_true']

theorem prefixes_length_le {ps : List LegacyPrefix} (h : prefixesOk ps = true) : ps.length ≤ 3 := by
  simpa using ((prefixesOk_iff ps).mp h).length_le_card

theorem repeatRefusal_eq_none {p : LegacyPrefix} {seen : List LegacyPrefix}
    (h : p.kind ∉ seen.map LegacyPrefix.kind) : repeatRefusal p seen = none := by
  unfold repeatRefusal
  exact if_neg (mt (any_sameKind_iff p seen).mp h)

/-- The prefixes are read back, each of a kind not seen before. -/
theorem decodePrefixes_map_byte {ps seen : List LegacyPrefix} (h : ((ps ++ seen).map LegacyPrefix.kind).Nodup)
    {b : Byte} (hb : prefixOfByte b = none) (hadmitted : isRefusedPrefix b = false) (rest : List Byte) :
    decodePrefixes seen (ps.map LegacyPrefix.byte ++ b :: rest) = .ok (ps, b :: rest) := by
  induction ps generalizing seen with
  | nil => exact decodePrefixes_of_end hb hadmitted seen rest
  | cons p ps ih =>
    have hmoved : ((ps ++ p :: seen).map LegacyPrefix.kind).Nodup :=
      ((List.perm_middle.map LegacyPrefix.kind).nodup_iff).mpr h
    have hnew : p.kind ∉ seen.map LegacyPrefix.kind := by
      rw [List.cons_append, List.map_cons, List.nodup_cons, List.map_append, List.mem_append, not_or] at h
      exact h.1.2
    rw [List.map_cons, List.cons_append, decodePrefixes_of_new (prefixOfByte_byte p) (repeatRefusal_eq_none hnew),
      ih hmoved]
    rfl

/-! The REX byte and the opcode. -/

/-- The REX byte or the first opcode byte follows the legacy prefixes: neither is one, and neither is refused as one. -/
theorem exists_byte_after_prefixes (rex : Option Rex) (bs : List Byte) :
    ∃ b tail, (rex.map Rex.byte).toList ++ 0x0F#8 :: bs = b :: tail ∧ prefixOfByte b = none ∧
      isRefusedPrefix b = false := by
  cases rex with
  | none => exact ⟨0x0F#8, bs, rfl, by decide, by decide⟩
  | some r =>
    refine ⟨r.byte, 0x0F#8 :: bs, rfl, ?_⟩
    obtain ⟨w, r, x, b⟩ := r
    revert w r x b
    decide

theorem decodeRex_byte {c : Ctx} {rex : Option Rex} (h : rex.isNone = true ∨ c.mode = .long64) (bs : List Byte) :
    decodeRex c ((rex.map Rex.byte).toList ++ 0x0F#8 :: bs) = (rex, 0x0F#8 :: bs) := by
  cases rex with
  | none => simp [decodeRex, show isRexByte 0x0F#8 = false by decide]
  | some r => simp_all [decodeRex, isRexByte_byte, rexOfByte_byte]

theorem decodeOpcode_number (n : BitVec 4) (bs : List Byte) :
    decodeOpcode (0x0F#8 :: (9#4 ++ n) :: bs) = .ok (n, bs) := by
  have hhigh : (9#4 ++ n).extractLsb' 4 4 = 9#4 := BitVec.extractLsb'_append_eq_left
  have hlow : (9#4 ++ n).extractLsb' 0 4 = n := BitVec.extractLsb'_append_eq_right
  simp [decodeOpcode, hhigh, hlow]

/-! The operand (30_encoding.md R54, R60, R61, R63). -/

/-- A well-formed operand is read back, from its ModR/M byte and the bytes after it. -/
theorem exists_decodeRm_encode {a : AddrSize} {rm : RmOperand} (h : rm.wf a = true) (reg : BitVec 3) :
    ∃ modrm bs, rm.encode reg = modrm :: bs ∧ modrm.extractLsb' 3 3 = reg ∧
      ∀ rest, decodeRm a modrm (bs ++ rest) = .ok (rm, rest) := by
  cases rm with
  | reg rm => exact ⟨_, _, rfl, modrmByte_reg .., fun rest => by simp [decodeRm]⟩
  | abs16 d =>
    refine ⟨_, _, rfl, modrmByte_reg .., fun rest => ?_⟩
    simp_all [RmOperand.wf, decodeRm, decodeMem16, take16_bytes16, withDisp]
  | based16 b d =>
    refine ⟨_, _, rfl, modrmByte_reg .., fun rest => ?_⟩
    cases d <;>
      simp_all [RmOperand.wf, decodeRm, decodeMem16, take16_bytes16, take8, withDisp, Disp16.mod, Disp16.bytes,
        base16Of_number, Base16.number_eq_six_iff]
  | direct d =>
    refine ⟨_, _, rfl, modrmByte_reg .., fun rest => ?_⟩
    simp_all [RmOperand.wf, decodeRm, decodeMem32, take32_bytes32, withDisp]
  | based rm d =>
    refine ⟨_, _, rfl, modrmByte_reg .., fun rest => ?_⟩
    cases d <;>
      simp_all [RmOperand.wf, decodeRm, decodeMem32, take32_bytes32, take8, withDisp, Disp32.mod, Disp32.bytes]
  | sib scale index base d =>
    refine ⟨_, _, rfl, modrmByte_reg .., fun rest => ?_⟩
    cases d <;>
      simp_all [RmOperand.wf, decodeRm, decodeMem32, decodeSib, take32_bytes32, take8, withDisp, Disp32.mod,
        Disp32.bytes]
  | sibNoBase scale index d =>
    refine ⟨_, _, rfl, modrmByte_reg .., fun rest => ?_⟩
    simp_all [RmOperand.wf, decodeRm, decodeMem32, decodeSib, take32_bytes32, withDisp]

/-! Lengths (30_encoding.md R69). -/

theorem RmOperand.length_encode (reg : BitVec 3) (rm : RmOperand) : (rm.encode reg).length = 1 + rm.length := by
  have h16 (d : Disp16) : d.bytes.length = d.length := by cases d <;> rfl
  have h32 (d : Disp32) : d.bytes.length = d.length := by cases d <;> rfl
  cases rm <;> simp [RmOperand.encode, RmOperand.length, bytes16, bytes32, h16, h32] <;> omega

theorem RmOperand.length_le (rm : RmOperand) : rm.length ≤ 5 := by
  have h16 (d : Disp16) : d.length ≤ 2 := by cases d <;> simp [Disp16.length]
  have h32 (d : Disp32) : d.length ≤ 4 := by cases d <;> simp [Disp32.length]
  cases rm with
  | based16 _ d => exact (h16 d).trans (by decide)
  | based _ d => exact (h32 d).trans (by decide)
  | sib _ _ _ d => exact Nat.add_le_add_left (h32 d) 1
  | _ => simp [RmOperand.length]

theorem Instr.length_encode (i : Instr) : i.encode.length = i.length := by
  cases h : i.rex <;>
    simp [Instr.encode, Instr.length, Form.length, RmOperand.length_encode, h] <;> omega

theorem Form.length_le_of_prefixesOk {f : Form} (h : prefixesOk f.prefixes = true) (rex : Option Rex) :
    f.length rex ≤ 12 := by
  have hprefixes := prefixes_length_le h
  have hrm := f.rm.length_le
  unfold Form.length
  split <;> omega

/-! The whole instruction. -/

theorem Instr.wf_iff (c : Ctx) (i : Instr) :
    i.wf c = true ↔
      prefixesOk i.form.prefixes = true ∧ (i.rex.isNone = true ∨ c.mode = .long64) ∧
        i.form.rm.wf (addrSize c i.form.hasAddressSize) = true ∧ i.form.overrideOk c = true := by
  simp [Instr.wf, Form.wf, and_assoc]

theorem Instr.length_encode_le {c : Ctx} {i : Instr} (h : i.wf c = true) : i.encode.length ≤ maxInsnLen := by
  obtain ⟨hprefixes, -⟩ := (i.wf_iff c).mp h
  have hle : i.length ≤ 12 := Form.length_le_of_prefixesOk hprefixes i.rex
  rw [Instr.length_encode]
  exact hle.trans (by decide)

theorem admitForm_of_wf {c : Ctx} {rex : Option Rex} {f : Form} (hprefixes : prefixesOk f.prefixes = true)
    (hoverride : f.overrideOk c = true) (k : Condition) (rest : List Byte) :
    admitForm c rex k.number f rest = .ok (.ofCondition k rex f, rest) := by
  have hlength : f.length rex ≤ maxInsnLen := (Form.length_le_of_prefixesOk hprefixes rex).trans (by decide)
  simp [admitForm, overrideRefusal, hoverride, hlength, conditionOf_number]

/-- The bytes of a well-formed instruction decode to the first of its synonyms, and leave over what follows them. -/
theorem decode_encode_append {c : Ctx} {i : Instr} (h : i.wf c = true) (rest : List Byte) :
    decode c (i.encode ++ rest) = .ok (i.primary, rest) := by
  obtain ⟨hprefixes, hrex, hrm, hoverride⟩ := (i.wf_iff c).mp h
  obtain ⟨modrm, bs, hencode, hreg, hdecode⟩ := exists_decodeRm_encode hrm i.form.reg
  have hbytes : i.encode ++ rest = i.form.prefixes.map LegacyPrefix.byte ++
      ((i.rex.map Rex.byte).toList ++ 0x0F#8 :: (9#4 ++ i.condition.number) :: modrm :: (bs ++ rest)) := by
    simp [Instr.encode, hencode]
  obtain ⟨b, tail, htail, hb, hadmitted⟩ :=
    exists_byte_after_prefixes i.rex ((9#4 ++ i.condition.number) :: modrm :: (bs ++ rest))
  have hnodup : ((i.form.prefixes ++ []).map LegacyPrefix.kind).Nodup := by
    rw [List.append_nil]
    exact (prefixesOk_iff _).mp hprefixes
  have hseen := decodePrefixes_map_byte hnodup hb hadmitted tail
  rw [← htail] at hseen
  have hoperand : decodeRm (addrSize c (i.form.prefixes.contains .addressSize)) modrm (bs ++ rest) =
      .ok (i.form.rm, rest) := hdecode rest
  simp only [hbytes, decode_eq_stages, Reader.andThen, hseen, Except.bind, decodeAfterPrefixes, decodeRex_byte hrex,
    decodeOpcode_number, decodeOperand, hoperand, hreg]
  exact admitForm_of_wf hprefixes hoverride i.condition rest

/-- A proper part of those bytes is no instruction yet, and nothing refuses it. -/
theorem decode_take_encode {c : Ctx} {i : Instr} (h : i.wf c = true) {m : Nat} (hm : m < i.encode.length) :
    decode c (i.encode.take m) = .error .truncated := by
  have hwhole := decode_encode_append h []
  rw [List.append_nil] at hwhole
  exact (stable_decode c).take_eq_truncated hwhole hm

/-! Synonyms (30_encoding.md R53). -/

theorem Instr.primary_parts (i : Instr) :
    i.primary.condition = i.condition ∧ i.primary.rex = i.rex ∧ i.primary.form = i.form := by
  unfold Instr.primary
  cases i.condition <;> cases i.rex <;> exact ⟨rfl, rfl, rfl⟩

end Sys2Proof

/-!
Proofs about instruction fetch and the step (20_memory.md R47; 40_setcc.md R82; 70_reset_and_hazards.md R176): the bytes
of the text at `pc` are the first bytes of the fetched window, so the decoder's answer on them is the step's.
-/

namespace Sys2Proof.Machine

/-! What is fetched. -/

theorem State.fetchByte_of_not_inText {s : State} {a : Word} (h : s.inText a = false) : s.fetchByte a = none := by
  simp [State.fetchByte_eq, h]

theorem State.fetchByte_of_translate_ok {s : State} {a p : Word} (ha : s.inText a = true)
    (h : s.translate (s.linear .cs a) false = .ok p) : s.fetchByte a = s.readByte p := by
  simp [State.fetchByte_eq, ha, State.textAddress, h]

theorem State.fetchByte_of_pageFault {s : State} {a : Word} {code : BitVec 32}
    (h : s.translate (s.linear .cs a) false = .pageFault code) : s.fetchByte a = none := by
  simp [State.fetchByte_eq, State.textAddress, h]

theorem State.fetchFrom_of_none {s : State} {a : Word} (h : s.fetchByte a = none) (n : Nat) :
    s.fetchFrom a n = [] := by
  cases n <;> simp [State.fetchFrom, h]

theorem State.fetchFrom_succ {s : State} {a : Word} {b : Byte} (h : s.fetchByte a = some b) (n : Nat) :
    s.fetchFrom a (n + 1) = b :: s.fetchFrom (a + 1) n := by
  simp [State.fetchFrom, h]

/-- The offset of byte `k + 1` is that of byte `k` counted from the next offset. -/
theorem offset_succ (a : Word) (k : Nat) : a + BitVec.ofNat 64 (k + 1) = a + 1 + BitVec.ofNat 64 k := by
  rw [Nat.add_comm, BitVec.ofNat_add, ← BitVec.add_assoc]
  rfl

/-- Where the text holds the bytes `w`, a fetch of at least as many gives them first. -/
theorem State.fetchFrom_eq_append {s : State} {w : List Byte} {a : Word}
    (h : ∀ k (hk : k < w.length), s.fetchByte (a + BitVec.ofNat 64 k) = some w[k]) (n : Nat) :
    s.fetchFrom a (w.length + n) = w ++ s.fetchFrom (a + BitVec.ofNat 64 w.length) n := by
  induction w generalizing a with
  | nil => simp
  | cons b w ih =>
    have hb : s.fetchByte a = some b := by simpa using h 0 (Nat.zero_lt_succ _)
    have hw : ∀ k (hk : k < w.length), s.fetchByte (a + 1 + BitVec.ofNat 64 k) = some w[k] := by
      intro k hk
      rw [← offset_succ]
      exact h (k + 1) (Nat.succ_lt_succ hk)
    rw [List.length_cons, Nat.add_right_comm, State.fetchFrom_succ hb, ih hw, offset_succ, List.cons_append]

/-- The window begins with the bytes `w` that the text holds at `pc`. -/
theorem State.exists_fetchWindow_eq_append {s : State} {w : List Byte} (hlength : w.length ≤ maxInsnLen)
    (h : ∀ k (hk : k < w.length), s.fetchByte (s.pc + BitVec.ofNat 64 k) = some w[k]) :
    ∃ rest, s.fetchWindow = w ++ rest ∧ (s.fetchByte (s.pc + BitVec.ofNat 64 w.length) = none → rest = []) := by
  refine ⟨s.fetchFrom (s.pc + BitVec.ofNat 64 w.length) (maxInsnLen - w.length), ?_,
    fun hend => State.fetchFrom_of_none hend _⟩
  rw [← State.fetchFrom_eq_append h, Nat.add_sub_cancel' hlength]
  rfl

theorem State.fetchWindow_of_none {s : State} (h : s.fetchByte s.pc = none) : s.fetchWindow = [] :=
  State.fetchFrom_of_none h _

/-! What a step does with the decoder's answer. -/

theorem State.debugActive_eq_false_iff (s : State) :
    s.debugActive = false ↔ s.rflags.getLsbD 8 = false ∧ s.breakpointArmed = false := by
  simp [State.debugActive, State.trapFlag]

theorem step_of_decode_ok {s : State} {i : Instr} {rest : List Byte} (hdebug : s.debugActive = false)
    (h : decode s.ctx s.fetchWindow = .ok (i, rest)) : step s = exec i s := by
  simp [step, State.nextInstr, hdebug, h]

theorem step_of_decode_error {s : State} {e : DecodeRefusal} (hdebug : s.debugActive = false)
    (h : decode s.ctx s.fetchWindow = .error e) : step s = .refused (s.decodeRefusal e) := by
  simp [step, State.nextInstr, hdebug, h]

/-- Synonyms have one meaning. -/
theorem exec_primary (i : Instr) (s : State) : exec i.primary s = exec i s := by
  obtain ⟨hcondition, hrex, hform⟩ := i.primary_parts
  rw [exec_eq_setByte, exec_eq_setByte, hcondition, hrex, hform]

/-- Settles O52: the window begins with the bytes of the instruction, which decode to its first synonym. -/
theorem stepRunsEncodedInstruction : Obligations.StepRunsEncodedInstruction := by
  refine ⟨fun s i htrap hbreak hwf hbytes => ?_, fun s a => ⟨s.inText_iff a, State.fetchByte_of_not_inText,
    fun ha p hp => State.fetchByte_of_translate_ok ha hp, fun code hcode => State.fetchByte_of_pageFault hcode⟩⟩
  obtain ⟨rest, hwindow, -⟩ := State.exists_fetchWindow_eq_append (Instr.length_encode_le hwf) hbytes
  have hdecode := decode_encode_append hwf rest
  rw [← hwindow] at hdecode
  rw [step_of_decode_ok ((s.debugActive_eq_false_iff).mpr ⟨htrap, hbreak⟩) hdecode, exec_primary]

/-! A step whose bytes end too soon. -/

theorem State.done_iff (s : State) : s.done = true ↔ s.pc.toNat = s.text.base.toNat + s.text.length := by
  simp [State.done]

theorem State.decodeRefusal_truncated_of_done {s : State} (h : s.pc.toNat = s.text.base.toNat + s.text.length) :
    s.decodeRefusal .truncated = .done := by
  simp [State.decodeRefusal, s.done_iff.mpr h]

theorem State.decodeRefusal_truncated {s : State} (h : s.pc.toNat ≠ s.text.base.toNat + s.text.length) :
    s.decodeRefusal .truncated = if s.pcInRange (s.fetchWindow.length + 1) then .fetchOutsideText else .pcWrap := by
  have hdone : s.done = false := Bool.not_eq_true _ ▸ mt s.done_iff.mp h
  simp [State.decodeRefusal, hdone]

theorem step_of_no_byte {s : State} (hdebug : s.debugActive = false) (h : s.fetchByte s.pc = none) :
    step s = .refused (s.decodeRefusal .truncated) := by
  refine step_of_decode_error hdebug ?_
  rw [State.fetchWindow_of_none h]
  rfl

/-- Just past the text there is no byte of it. -/
theorem State.fetchByte_past_text {s : State} {a : Word} (h : a.toNat = s.text.base.toNat + s.text.length) :
    s.fetchByte a = none := by
  refine State.fetchByte_of_not_inText ?_
  simp [State.inText, h]

/-- The window is the part of an encoding that the text holds, where the next byte is missing. -/
theorem State.fetchWindow_eq_take {s : State} {w : List Byte} {m : Nat} (hm : m < w.length) (hlength : m ≤ maxInsnLen)
    (h : ∀ k, k < m → s.fetchByte (s.pc + BitVec.ofNat 64 k) = w[k]?)
    (hend : s.fetchByte (s.pc + BitVec.ofNat 64 m) = none) : s.fetchWindow = w.take m := by
  have htake : (w.take m).length = m := List.length_take_of_le hm.le
  have hbytes : ∀ k (hk : k < (w.take m).length), s.fetchByte (s.pc + BitVec.ofNat 64 k) = some (w.take m)[k] := by
    intro k hk
    rw [h k (htake ▸ hk), List.getElem_take]
    exact List.getElem?_eq_getElem _
  obtain ⟨rest, hwindow, hrest⟩ := State.exists_fetchWindow_eq_append (htake.trans_le hlength) hbytes
  rw [hwindow, hrest (htake.symm ▸ hend), List.append_nil]

/-- Settles O53: in each case the decoder answers `truncated`, and where `pc` is names the refusal. -/
theorem fetchOutsideTextIsRefused : Obligations.FetchOutsideTextIsRefused := by
  refine ⟨fun s hdebug hdone => ?_, fun s hdebug hdone hrange hbyte => ?_,
    fun s i m hdebug hdone hwf hm hbytes hend => ?_⟩
  · rw [step_of_no_byte hdebug (State.fetchByte_past_text hdone), State.decodeRefusal_truncated_of_done hdone]
  · rw [step_of_no_byte hdebug hbyte, State.decodeRefusal_truncated hdone, State.fetchWindow_of_none hbyte]
    exact congrArg Host.Outcome.refused (if_pos hrange)
  · have hwindow := State.fetchWindow_eq_take hm (hm.le.trans (Instr.length_encode_le hwf)) hbytes hend
    have hdecode := decode_take_encode hwf hm
    rw [← hwindow] at hdecode
    rw [step_of_decode_error hdebug hdecode, State.decodeRefusal_truncated hdone, hwindow,
      List.length_take_of_le hm.le]

end Sys2Proof.Machine

/-!
Proofs about the decoder on any bytes (30_encoding.md R50 to R71): what each stage reads is what the encoder writes for
it, so whatever decodes is well-formed and encodes to the bytes taken; and no stage names a length refusal.

`Reads read good` says both of a reader, as a postcondition: each value it gives is `good` with the bytes it took, and
its refusal is never `tooLong`. A rule for each way readers are put together makes the proof for the decoder the
composition of those for its stages (`decode_eq_stages`).
-/

namespace Sys2Proof

/-! Postconditions of readers. -/

/-- An answer of a reader on the bytes `bs`: a value `good` with the bytes taken, or a refusal other than `tooLong`. -/
inductive Answer {α : Type} (good : α → List Byte → Prop) (bs : List Byte) :
    Except DecodeRefusal (α × List Byte) → Prop
  | ok {v : α} {w rest : List Byte} (hbs : bs = w ++ rest) (hgood : good v w) : Answer good bs (.ok (v, rest))
  | error {e : DecodeRefusal} (he : e ≠ .tooLong) : Answer good bs (.error e)

/-- Every value the reader gives is `good` with the bytes it took, and it refuses nothing as `tooLong`. -/
def Reads {α : Type} (read : Reader α) (good : α → List Byte → Prop) : Prop := ∀ bs, Answer good bs (read bs)

section

variable {α β : Type} {read : Reader α} {good : α → List Byte → Prop}

theorem reads_ok {v : α} (h : good v []) : Reads (fun bs => .ok (v, bs)) good := fun _ => .ok rfl h

theorem reads_error {e : DecodeRefusal} (h : e ≠ .tooLong) : Reads (fun _ => .error e) good := fun _ => .error h

/-- A reader of one byte and what follows it. -/
theorem reads_of_cons (hnil : read [] = .error .truncated)
    (hcons : ∀ b, Reads (fun bs => read (b :: bs)) fun v w => good v (b :: w)) : Reads read good := by
  intro bs
  cases bs with
  | nil => exact hnil ▸ .error nofun
  | cons b bs =>
    have h := hcons b bs
    beta_reduce at h
    match read (b :: bs), h with
    | _, .ok hbs hgood => exact .ok (congrArg (b :: ·) hbs) hgood
    | _, .error he => exact .error he

theorem reads_ite {c : Prop} [Decidable c] {no : Reader α} (hyes : c → Reads read good)
    (hno : ¬c → Reads no good) : Reads (fun bs => if c then read bs else no bs) good := by
  by_cases h : c
  · simpa only [if_pos h] using hyes h
  · simpa only [if_neg h] using hno h

/-- After the bytes `w`, the second reader has to be good for `w` and the bytes it takes. -/
theorem Reads.andThen {next : α → Reader β} {goal : β → List Byte → Prop} (hread : Reads read good)
    (hnext : ∀ v w, good v w → Reads (next v) fun u w' => goal u (w ++ w')) : Reads (read.andThen next) goal := by
  intro bs
  unfold Reader.andThen
  match read bs, hread bs with
  | _, .error he => exact .error he
  | _, .ok (v := v) (w := w) (rest := rest) hbs hgood =>
    simp only [Except.bind]
    match next v rest, hnext v w hgood rest with
    | _, .error he => exact .error he
    | _, .ok hrest hgoal => exact .ok (by rw [hbs, hrest, List.append_assoc]) hgoal

theorem Reads.withDisp {wrap : α → RmOperand} {goal : RmOperand → List Byte → Prop} (hread : Reads read good)
    (h : ∀ d w, good d w → goal (wrap d) w) : Reads (fun bs => withDisp wrap (read bs)) goal := by
  intro bs
  beta_reduce
  match read bs, hread bs with
  | _, .error he => exact .error he
  | _, .ok hbs hgood => exact .ok hbs (h _ _ hgood)

end

/-! The fields of a byte make up the byte (30_encoding.md R54, R58, R61). -/

theorem modrmByte_fields (b : Byte) :
    modrmByte (b.extractLsb' 6 2) (b.extractLsb' 3 3) (b.extractLsb' 0 3) = b := by
  unfold modrmByte
  rw [BitVec.extractLsb'_append_extractLsb'_eq_extractLsb' (show 6 = 3 + 3 from rfl),
    BitVec.extractLsb'_append_extractLsb'_eq_extractLsb' (show 3 = 0 + 3 from rfl)]
  exact BitVec.extractLsb'_eq_self

theorem sibByte_fields (b : Byte) : sibByte (b.extractLsb' 6 2) (b.extractLsb' 3 3) (b.extractLsb' 0 3) = b :=
  modrmByte_fields b

theorem highNibble_append_lowNibble (b : Byte) : b.extractLsb' 4 4 ++ b.extractLsb' 0 4 = b :=
  BitVec.extractLsb'_append_extractLsb'

theorem byte_rexOfByte {b : Byte} (h : isRexByte b = true) : (rexOfByte b).byte = b := by
  revert b
  decide

theorem byte_of_prefixOfByte {b : Byte} {p : LegacyPrefix} (h : prefixOfByte b = some p) : p.byte = b := by
  unfold prefixOfByte at h
  split_ifs at h with hb hb hb hb hb hb hb hb <;> cases h <;> exact hb.symm

theorem number_conditionOf (n : BitVec 4) : (conditionOf n).number = n := by
  revert n
  decide

theorem number_base16Of (rm : BitVec 3) : (base16Of rm).number = rm := by
  revert rm
  decide

theorem eq_two_of_ne {mod : BitVec 2} (h0 : mod ≠ 0#2) (h1 : mod ≠ 1#2) (h3 : mod ≠ 3#2) : mod = 2#2 := by
  revert mod
  decide

/-! Displacements (30_encoding.md R64). -/

theorem reads_take8 : Reads take8 fun d w => w = [d] := reads_of_cons rfl fun _ => reads_ok rfl

theorem extractByte_succ_append {n : Nat} (x : BitVec n) (d : Byte) (k : Nat) :
    (x ++ d).extractLsb' (k + 8) 8 = x.extractLsb' k 8 :=
  BitVec.extractLsb'_append_eq_of_le (Nat.le_add_left 8 k)

theorem bytes16_append (d0 d1 : Byte) : bytes16 (d1 ++ d0) = [d0, d1] := by
  unfold bytes16
  rw [BitVec.extractLsb'_append_eq_right, BitVec.extractLsb'_append_eq_left]

theorem bytes32_append (d0 d1 d2 d3 : Byte) : bytes32 (d3 ++ d2 ++ d1 ++ d0) = [d0, d1, d2, d3] := by
  unfold bytes32
  rw [BitVec.extractLsb'_append_eq_right, extractByte_succ_append _ _ 0, BitVec.extractLsb'_append_eq_right,
    extractByte_succ_append _ _ 8, extractByte_succ_append _ _ 0, BitVec.extractLsb'_append_eq_right,
    extractByte_succ_append _ _ 16, extractByte_succ_append _ _ 8, BitVec.extractLsb'_append_eq_left]

theorem reads_take16 : Reads take16 fun d w => w = bytes16 d :=
  reads_of_cons rfl fun d0 => reads_of_cons rfl fun d1 => reads_ok (bytes16_append d0 d1).symm

theorem reads_take32 : Reads take32 fun d w => w = bytes32 d :=
  reads_of_cons rfl fun d0 => reads_of_cons rfl fun d1 => reads_of_cons rfl fun d2 => reads_of_cons rfl fun d3 =>
    reads_ok (bytes32_append d0 d1 d2 d3).symm

/-! The operand (30_encoding.md R54, R60, R61, R63). -/

/-- What an operand and the bytes after ModR/M have to be, for the fields `mod`, `reg` and `rm`: well-formed and the
encoder's. -/
def OperandIs (a : AddrSize) (mod : BitVec 2) (reg rm : BitVec 3) (o : RmOperand) (w : List Byte) : Prop :=
  o.wf a = true ∧ modrmByte mod reg rm :: w = o.encode reg

theorem reads_decodeMem16 {mod : BitVec 2} (hmod : mod ≠ 3#2) (reg rm : BitVec 3) :
    Reads (decodeMem16 mod rm) (OperandIs .a16 mod reg rm) := by
  have hbase : rm ≠ 6#3 → base16Of rm ≠ .bp := by
    intro hrm hbp
    exact hrm (by rw [← number_base16Of rm, hbp]; rfl)
  refine reads_ite (fun h0 => reads_ite (fun h6 => ?_) fun h6 => ?_) fun h0 => reads_ite (fun h1 => ?_) fun h1 => ?_
  · exact reads_take16.withDisp fun d w hw => ⟨rfl, by rw [hw, h0, h6]; rfl⟩
  · exact reads_ok ⟨by simp [RmOperand.wf, hbase h6],
      by simp [RmOperand.encode, number_base16Of, h0, Disp16.mod, Disp16.bytes]⟩
  · exact reads_take8.withDisp fun d w hw => ⟨by simp [RmOperand.wf],
      by simp [RmOperand.encode, number_base16Of, h1, hw, Disp16.mod, Disp16.bytes]⟩
  · exact reads_take16.withDisp fun d w hw => ⟨by simp [RmOperand.wf],
      by simp [RmOperand.encode, number_base16Of, eq_two_of_ne h0 h1 hmod, hw, Disp16.mod, Disp16.bytes]⟩

theorem reads_decodeSib {a : AddrSize} (ha : a ≠ .a16) {mod : BitVec 2} (hmod : mod ≠ 3#2) (reg : BitVec 3) :
    Reads (decodeSib mod) (OperandIs a mod reg 4#3) := by
  refine reads_of_cons rfl fun sib => ?_
  rw [← sibByte_fields sib]
  generalize sib.extractLsb' 6 2 = scale, sib.extractLsb' 3 3 = index, sib.extractLsb' 0 3 = base
  simp only [decodeSib, sibByte_scale, sibByte_index, sibByte_base]
  refine reads_ite (fun h0 => reads_ite (fun h5 => ?_) fun h5 => ?_) fun h0 => reads_ite (fun h1 => ?_) fun h1 => ?_
  · exact reads_take32.withDisp fun d w hw => ⟨by simp [RmOperand.wf, ha], by rw [hw, h0, h5]; rfl⟩
  · exact reads_ok ⟨by simp [RmOperand.wf, ha, h5], by rw [h0]; rfl⟩
  · exact reads_take8.withDisp fun d w hw => ⟨by simp [RmOperand.wf, ha], by rw [hw, h1]; rfl⟩
  · exact reads_take32.withDisp fun d w hw => ⟨by simp [RmOperand.wf, ha], by rw [hw, eq_two_of_ne h0 h1 hmod]; rfl⟩

theorem reads_decodeMem32 {a : AddrSize} (ha : a ≠ .a16) {mod : BitVec 2} (hmod : mod ≠ 3#2) (reg rm : BitVec 3) :
    Reads (decodeMem32 mod rm) (OperandIs a mod reg rm) := by
  refine reads_ite (fun h4 => h4 ▸ reads_decodeSib ha hmod reg) fun h4 =>
    reads_ite (fun h0 => reads_ite (fun h5 => ?_) fun h5 => ?_) fun h0 => reads_ite (fun h1 => ?_) fun h1 => ?_
  · exact reads_take32.withDisp fun d w hw => ⟨by simp [RmOperand.wf, ha], by rw [hw, h0, h5]; rfl⟩
  · exact reads_ok ⟨by simp [RmOperand.wf, ha, h4, h5], by rw [h0]; rfl⟩
  · exact reads_take8.withDisp fun d w hw => ⟨by simp [RmOperand.wf, ha, h4], by rw [hw, h1]; rfl⟩
  · exact reads_take32.withDisp fun d w hw => ⟨by simp [RmOperand.wf, ha, h4],
      by rw [hw, eq_two_of_ne h0 h1 hmod]; rfl⟩

theorem reads_decodeRm (a : AddrSize) (modrm : Byte) :
    Reads (decodeRm a modrm) fun o w => o.wf a = true ∧ modrm :: w = o.encode (modrm.extractLsb' 3 3) := by
  have hmodrm := modrmByte_fields modrm
  generalize modrm.extractLsb' 6 2 = mod, modrm.extractLsb' 3 3 = reg, modrm.extractLsb' 0 3 = rm at hmodrm
  subst hmodrm
  unfold decodeRm
  simp only [modrmByte_mod, modrmByte_rm]
  refine reads_ite (fun h3 => ?_) fun h3 => reads_ite (fun ha => ?_) fun ha => ?_
  · exact reads_ok ⟨rfl, by rw [h3]; rfl⟩
  · exact ha ▸ reads_decodeMem16 h3 reg rm
  · exact reads_decodeMem32 ha h3 reg rm

/-! The prefixes and the opcode (30_encoding.md R50, R51, R58). -/

/-- A repeated kind is refused by its own name. -/
theorem repeatRefusal_of_any {p : LegacyPrefix} {seen : List LegacyPrefix} (h : seen.any p.sameKind = true) :
    repeatRefusal p seen = some (if p.kind = 1 then .multiSegPrefix else .repeatedPrefix) := by
  unfold repeatRefusal
  rw [if_pos h]
  cases p <;> rfl

/-- No kind is read twice, nor read again after the prefixes `seen`. -/
theorem reads_decodePrefixes {seen : List LegacyPrefix} (hseen : (seen.map LegacyPrefix.kind).Nodup) :
    Reads (decodePrefixes seen) fun ps w =>
      ((ps ++ seen).map LegacyPrefix.kind).Nodup ∧ w = ps.map LegacyPrefix.byte := by
  intro bs
  induction bs generalizing seen with
  | nil => exact .error nofun
  | cons b bs ih =>
    cases hb : prefixOfByte b with
    | none =>
      cases hr : isRefusedPrefix b with
      | true => exact decodePrefixes_of_refused hb hr seen bs ▸ .error nofun
      | false => exact decodePrefixes_of_end hb hr seen bs ▸ .ok (w := []) rfl ⟨hseen, rfl⟩
    | some p =>
      by_cases hp : p.kind ∈ seen.map LegacyPrefix.kind
      · rw [decodePrefixes_of_repeated hb (repeatRefusal_of_any ((any_sameKind_iff p seen).mpr hp))]
        exact .error (by split <;> nofun)
      · rw [decodePrefixes_of_new hb (repeatRefusal_eq_none hp)]
        match decodePrefixes (p :: seen) bs, ih (seen := p :: seen) (List.nodup_cons.mpr ⟨hp, hseen⟩) with
        | _, .error he => exact .error he
        | _, .ok (v := ps) hbs ⟨hnodup, hw⟩ =>
          have hmoved : ((p :: ps ++ seen).map LegacyPrefix.kind).Nodup :=
            ((List.perm_middle.map LegacyPrefix.kind).nodup_iff).mp hnodup
          exact .ok (w := b :: _) (congrArg (b :: ·) hbs) ⟨hmoved, by rw [hw, ← byte_of_prefixOfByte hb]; rfl⟩

theorem reads_decodeRex (c : Ctx) :
    Reads (fun bs => .ok (decodeRex c bs)) fun rex w =>
      (rex.isNone = true ∨ c.mode = .long64) ∧ w = (rex.map Rex.byte).toList := by
  intro bs
  cases bs with
  | nil => exact .ok (w := []) rfl ⟨.inl rfl, rfl⟩
  | cons b bs =>
    by_cases h : c.mode = .long64 ∧ isRexByte b = true
    · simp only [decodeRex, if_pos h]
      exact .ok (w := [b]) rfl ⟨.inr h.1, congrArg (fun b => [b]) (byte_rexOfByte h.2).symm⟩
    · simp only [decodeRex, if_neg h]
      exact .ok (w := []) rfl ⟨.inl rfl, rfl⟩

theorem reads_decodeOpcode : Reads decodeOpcode fun n w => w = [0x0F#8, 9#4 ++ n] := by
  refine reads_of_cons rfl fun b => ?_
  by_cases hb : b = 0x0F#8
  · subst hb
    refine reads_of_cons rfl fun op => reads_ite (fun hop => reads_ok ?_) fun _ => reads_error nofun
    rw [← hop, highNibble_append_lowNibble]
  · simp only [decodeOpcode, if_neg hb]
    exact reads_error nofun

/-! The whole instruction. -/

@[simp] theorem Instr.ofCondition_condition (k : Condition) (rex : Option Rex) (f : Form) :
    (Instr.ofCondition k rex f).condition = k := by
  cases k <;> cases rex <;> rfl

@[simp] theorem Instr.ofCondition_rex (k : Condition) (rex : Option Rex) (f : Form) :
    (Instr.ofCondition k rex f).rex = rex := by
  cases k <;> cases rex <;> rfl

@[simp] theorem Instr.ofCondition_form (k : Condition) (rex : Option Rex) (f : Form) :
    (Instr.ofCondition k rex f).form = f := by
  cases k <;> cases rex <;> rfl

/-- With the parts read, the only refusals left are those of the segment override: three prefixes at most keep the
length below the limit. -/
theorem reads_admitForm {c : Ctx} {rex : Option Rex} {n : BitVec 4} {f : Form} {goal : Instr → List Byte → Prop}
    (hprefixes : prefixesOk f.prefixes = true)
    (h : f.overrideOk c = true → goal (.ofCondition (conditionOf n) rex f) []) : Reads (admitForm c rex n f) goal := by
  have hlength : f.length rex ≤ maxInsnLen := (Form.length_le_of_prefixesOk hprefixes rex).trans (by decide)
  unfold admitForm overrideRefusal
  cases hoverride : f.overrideOk c with
  | true => simpa [hlength] using reads_ok (h hoverride)
  | false => cases f.rm.isReg <;> exact reads_error nofun

theorem reads_decodeOperand {c : Ctx} {ps : List LegacyPrefix} {rex : Option Rex} (n : BitVec 4)
    (hprefixes : prefixesOk ps = true) (hrex : rex.isNone = true ∨ c.mode = .long64) :
    Reads (decodeOperand c ps rex n) fun i w =>
      i.wf c = true ∧ i.primary = i ∧
        i.encode = ps.map LegacyPrefix.byte ++ ((rex.map Rex.byte).toList ++ ([0x0F#8, 9#4 ++ n] ++ w)) := by
  refine reads_of_cons rfl fun modrm => ?_
  simp only [decodeOperand]
  refine (reads_decodeRm _ modrm).andThen fun rm w ⟨hwf, hencode⟩ =>
    reads_admitForm hprefixes fun hoverride => ⟨?_, ?_, ?_⟩
  · rw [Instr.wf_iff, Instr.ofCondition_rex, Instr.ofCondition_form]
    exact ⟨hprefixes, hrex, hwf, hoverride⟩
  · simp [Instr.primary]
  · simp [Instr.encode, ← hencode, number_conditionOf]

theorem reads_decode (c : Ctx) : Reads (decode c) fun i w => i.wf c = true ∧ i.primary = i ∧ i.encode = w := by
  rw [decode_eq_stages]
  refine (reads_decodePrefixes (seen := []) List.nodup_nil).andThen fun ps w ⟨hnodup, hw⟩ => ?_
  have hprefixes : prefixesOk ps = true := (prefixesOk_iff ps).mpr (List.append_nil ps ▸ hnodup)
  refine (reads_decodeRex c).andThen fun rex w' ⟨hrex, hw'⟩ => reads_decodeOpcode.andThen fun n w'' hw'' => ?_
  rw [hw, hw', hw'']
  exact reads_decodeOperand n hprefixes hrex

/-- Settles O16: each stage of the decoder reads back what the encoder wrote for it. -/
theorem decodeOfEncodeGivesInstruction : Obligations.DecodeOfEncodeGivesInstruction := by
  intro c i rest h
  have hdecode := decode_encode_append h rest
  exact ⟨hdecode, fun hprimary => hdecode.trans (congrArg (fun j => Except.ok (j, rest)) hprimary.symm)⟩

/-- Settles O17: each stage of the decoder takes the bytes that the encoder writes for what it reads. -/
theorem encodeOfDecodeGivesBytes : Obligations.EncodeOfDecodeGivesBytes := by
  intro c bs i rest h
  cases h ▸ reads_decode c bs with
  | ok hbs hgood =>
    obtain ⟨hwf, hprimary, hencode⟩ := hgood
    exact ⟨hwf, hprimary, by rw [hencode, hbs]⟩

end Sys2Proof

/-!
Proofs about what the decoder refuses, each form by its name, and about lengths (30_encoding.md R58, R66, R68 to R71,
R76). A refused byte comes after legacy prefixes that the decoder has taken: `decode_of_prefixes_error` is for a byte
that the loop over them refuses, `decode_of_rex_opcode_error` and `decode_of_no_rex_opcode_error` for one that is no
opcode, and `decode_encode_eq_admitForm` for a whole instruction whose override is refused.
-/

namespace Sys2Proof

/-! Bytes by their numbers. -/

/-- A byte that ends the legacy prefixes: none of them, and none of those that the model refuses. -/
def endsPrefixes (b : Byte) : Prop := prefixOfByte b = none ∧ isRefusedPrefix b = false

theorem isRefusedPrefix_iff (b : Byte) : isRefusedPrefix b = true ↔ b = 0x66#8 ∨ b = 0xF2#8 ∨ b = 0xF3#8 := by
  simp [isRefusedPrefix, or_assoc]

theorem prefixOfByte_eq_none_of_refused {b : Byte} (h : isRefusedPrefix b = true) : prefixOfByte b = none := by
  obtain rfl | rfl | rfl := (isRefusedPrefix_iff b).mp h <;> rfl

theorem endsPrefixes_of_notMem {b : Byte}
    (h : b ∉ [0xF0#8, 0x26#8, 0x2E#8, 0x36#8, 0x3E#8, 0x64#8, 0x65#8, 0x67#8, 0x66#8, 0xF2#8, 0xF3#8]) :
    endsPrefixes b := by
  simp only [List.mem_cons, List.not_mem_nil, not_or] at h
  simp_all [endsPrefixes, prefixOfByte, isRefusedPrefix]

theorem highNibble_eq_iff (b : Byte) (k : BitVec 4) : b.extractLsb' 4 4 = k ↔ b.toNat / 16 = k.toNat := by
  rw [← BitVec.toNat_inj, BitVec.extractLsb'_toNat, Nat.shiftRight_eq_div_pow, Nat.mod_eq_of_lt (by omega)]

theorem isRexByte_iff (b : Byte) : isRexByte b = true ↔ 0x40 ≤ b.toNat ∧ b.toNat ≤ 0x4F := by
  rw [isRexByte, beq_iff_eq, highNibble_eq_iff]
  simp only [BitVec.toNat_ofNat]
  omega

theorem endsPrefixes_of_isRexByte {b : Byte} (h : isRexByte b = true) : endsPrefixes b := by
  refine endsPrefixes_of_notMem fun hmem => ?_
  simp only [List.mem_cons, List.not_mem_nil, or_false] at hmem
  obtain rfl | rfl | rfl | rfl | rfl | rfl | rfl | rfl | rfl | rfl | rfl := hmem <;> cases h

theorem endsPrefixes_escape : endsPrefixes 0x0F#8 := ⟨rfl, rfl⟩

/-! The loop over the legacy prefixes, after those that it has taken. -/

theorem decodePrefixes_map_byte_append {ps seen : List LegacyPrefix}
    (h : ((ps ++ seen).map LegacyPrefix.kind).Nodup) (bs : List Byte) :
    decodePrefixes seen (ps.map LegacyPrefix.byte ++ bs) =
      (decodePrefixes (ps.reverse ++ seen) bs).map (Prod.map (ps ++ ·) id) := by
  induction ps generalizing seen with
  | nil => cases hr : decodePrefixes seen bs <;> simp [hr, Except.map, Prod.map]
  | cons p ps ih =>
    have hmoved : ((ps ++ p :: seen).map LegacyPrefix.kind).Nodup :=
      ((List.perm_middle.map LegacyPrefix.kind).nodup_iff).mpr h
    have hnew : p.kind ∉ seen.map LegacyPrefix.kind := by
      simp only [List.cons_append, List.map_cons, List.map_append, List.nodup_cons, List.mem_append, not_or] at h
      exact h.1.2
    rw [List.map_cons, List.cons_append, decodePrefixes_of_new (prefixOfByte_byte p) (repeatRefusal_eq_none hnew),
      ih hmoved, List.reverse_cons, List.append_assoc, List.singleton_append]
    cases decodePrefixes (ps.reverse ++ p :: seen) bs <;> rfl

/-- Admitted prefixes, after none. -/
theorem nodup_of_prefixesOk {ps : List LegacyPrefix} (h : prefixesOk ps = true) :
    ((ps ++ []).map LegacyPrefix.kind).Nodup := by
  rw [List.append_nil]
  exact (prefixesOk_iff ps).mp h

section

variable {c : Ctx} {ps : List LegacyPrefix} {b : Byte} {bs : List Byte} {e : DecodeRefusal}

theorem decode_of_prefixes_error (hps : prefixesOk ps = true) (h : decodePrefixes ps.reverse bs = .error e) :
    decode c (ps.map LegacyPrefix.byte ++ bs) = .error e := by
  rw [decode_eq_stages, Reader.andThen, decodePrefixes_map_byte_append (nodup_of_prefixesOk hps), List.append_nil, h]
  rfl

theorem decode_of_endsPrefixes (hps : prefixesOk ps = true) (hb : endsPrefixes b) :
    decode c (ps.map LegacyPrefix.byte ++ b :: bs) = decodeAfterPrefixes c ps (b :: bs) := by
  rw [decode_eq_stages, Reader.andThen, decodePrefixes_map_byte (nodup_of_prefixesOk hps) hb.1 hb.2]
  rfl

/-! The bytes after the prefixes (30_encoding.md R58, R70, R76). -/

theorem decodeOpcode_of_ne (h : b ≠ 0x0F#8) (bs : List Byte) : decodeOpcode (b :: bs) = .error .notSetcc := if_neg h

theorem decodeOpcode_of_second (h : b.toNat < 0x90 ∨ 0x9F < b.toNat) (bs : List Byte) :
    decodeOpcode (0x0F#8 :: b :: bs) = .error .notSetcc := by
  refine if_neg fun hb => ?_
  rw [highNibble_eq_iff] at hb
  simp only [BitVec.toNat_ofNat] at hb
  omega

/-- The refusal of the opcode, after a REX byte or without it, is that of the decoder. -/
theorem decode_of_opcode_error (hps : prefixesOk ps = true) (hb : endsPrefixes b)
    (h : decodeOpcode (decodeRex c (b :: bs)).2 = .error e) :
    decode c (ps.map LegacyPrefix.byte ++ b :: bs) = .error e := by
  rw [decode_of_endsPrefixes hps hb, decodeAfterPrefixes, Reader.andThen, h]
  rfl

theorem decode_of_rex_opcode_error (hps : prefixesOk ps = true) (hc : c.mode = .long64) (hb : isRexByte b = true)
    (h : decodeOpcode bs = .error e) : decode c (ps.map LegacyPrefix.byte ++ b :: bs) = .error e := by
  refine decode_of_opcode_error hps (endsPrefixes_of_isRexByte hb) ?_
  rwa [decodeRex, if_pos ⟨hc, hb⟩]

theorem decode_of_no_rex_opcode_error (hps : prefixesOk ps = true) (hb : endsPrefixes b)
    (hrex : ¬(c.mode = .long64 ∧ isRexByte b = true)) (h : decodeOpcode (b :: bs) = .error e) :
    decode c (ps.map LegacyPrefix.byte ++ b :: bs) = .error e := by
  refine decode_of_opcode_error hps hb ?_
  rwa [decodeRex, if_neg hrex]

end

/-- Settles O18: the loop over the legacy prefixes names the byte. -/
theorem ignoredPrefixesAreRefused : Obligations.IgnoredPrefixesAreRefused := by
  intro c ps b rest hps hb
  have hrefused := (isRefusedPrefix_iff b).mpr hb
  exact decode_of_prefixes_error hps (decodePrefixes_of_refused (prefixOfByte_eq_none_of_refused hrefused) hrefused _ _)

theorem ne_escape_of_isRexByte {b : Byte} (h : isRexByte b = true) : b ≠ 0x0F#8 := by
  rintro rfl
  cases h

/-- Settles O19: outside 64-bit mode no REX byte is taken, and the byte is not 0FH. -/
theorem rexByteBelongsToSetccOnlyIn64BitMode : Obligations.RexByteBelongsToSetccOnlyIn64BitMode := by
  intro c ps b rest hc hps hlow hhigh
  have hrex := (isRexByte_iff b).mpr ⟨hlow, hhigh⟩
  exact decode_of_no_rex_opcode_error hps (endsPrefixes_of_isRexByte hrex) (fun h => hc h.1)
    (decodeOpcode_of_ne (ne_escape_of_isRexByte hrex) rest)

/-! A whole instruction whose segment override is refused (30_encoding.md R66). -/

/-- Up to its last stage the decoder reads the bytes of an instruction, whatever its override. -/
theorem decode_encode_eq_admitForm {c : Ctx} {i : Instr} (hprefixes : prefixesOk i.form.prefixes = true)
    (hrex : i.rex.isNone = true ∨ c.mode = .long64)
    (hrm : i.form.rm.wf (addrSize c i.form.hasAddressSize) = true) (rest : List Byte) :
    decode c (i.encode ++ rest) = admitForm c i.rex i.condition.number i.form rest := by
  obtain ⟨modrm, bs, hencode, hreg, hdecode⟩ := exists_decodeRm_encode hrm i.form.reg
  have hbytes : i.encode ++ rest = i.form.prefixes.map LegacyPrefix.byte ++
      ((i.rex.map Rex.byte).toList ++ 0x0F#8 :: (9#4 ++ i.condition.number) :: modrm :: (bs ++ rest)) := by
    simp [Instr.encode, hencode]
  obtain ⟨b, tail, htail, hb⟩ :=
    exists_byte_after_prefixes i.rex ((9#4 ++ i.condition.number) :: modrm :: (bs ++ rest))
  have hoperand : decodeRm (addrSize c (i.form.prefixes.contains .addressSize)) modrm (bs ++ rest) =
      .ok (i.form.rm, rest) := hdecode rest
  rw [hbytes, htail, decode_of_endsPrefixes hprefixes hb, ← htail]
  simp only [decodeAfterPrefixes, Reader.andThen, decodeRex_byte hrex, decodeOpcode_number, Except.bind,
    decodeOperand, hoperand, hreg]

theorem admitForm_of_refused {c : Ctx} {f : Form} (h : f.overrideOk c = false) (rex : Option Rex) (n : BitVec 4)
    (rest : List Byte) :
    admitForm c rex n f rest = .error (if f.rm.isReg then .segPrefixOnReg else .nullSegPrefix) := by
  simp only [admitForm, overrideRefusal, h]
  cases f.rm.isReg <;> rfl

theorem Form.overrideOk_of_isReg {c : Ctx} {f : Form} {n : SegName} (hn : f.override = some n)
    (h : f.rm.isReg = true) : f.overrideOk c = false := by
  simp [Form.overrideOk, hn, h]

theorem Form.overrideOk_of_flat {c : Ctx} {f : Form} {n : SegName} (hn : f.override = some n)
    (hc : c.mode = .long64) (hflat : n = .es ∨ n = .cs ∨ n = .ss ∨ n = .ds) : f.overrideOk c = false := by
  obtain rfl | rfl | rfl | rfl := hflat <;> simp [Form.overrideOk, hn, hc]

theorem RmOperand.wf_of_isReg {rm : RmOperand} (h : rm.isReg = true) (a : AddrSize) : rm.wf a = true := by
  cases rm with
  | reg rm => rfl
  | _ => cases h

/-- Settles O20: each refused byte after the prefixes taken, and each refused override on a whole instruction. -/
theorem refusedFormsByName : Obligations.RefusedFormsByName := by
  refine ⟨fun c ps b b' rest hc hps hlow hhigh hb' => ?_, fun c ps p rest hps hp => ?_, fun c ps b rest hps hb => ?_,
    fun c ps b rest hps hb hescape hrex => ?_, fun c ps b b' rest hc hps hlow hhigh hb' => ?_, fun c bs h => ?_,
    fun c i n rest hps hrex hn hreg => ?_, fun c i n rest hps hc hn hflat hreg hrm => ?_⟩
  · exact decode_of_rex_opcode_error hps hc ((isRexByte_iff b).mpr ⟨hlow, hhigh⟩) (decodeOpcode_of_ne hb' rest)
  · have hrepeat := repeatRefusal_of_any (List.any_reverse.trans hp)
    rw [decode_of_prefixes_error hps (decodePrefixes_of_repeated (prefixOfByte_byte p) hrepeat rest)]
    cases p <;> rfl
  · exact decode_of_no_rex_opcode_error hps endsPrefixes_escape (fun h => ne_escape_of_isRexByte h.2 rfl)
      (decodeOpcode_of_second hb rest)
  · exact decode_of_no_rex_opcode_error hps (endsPrefixes_of_notMem hb) (fun h => hrex ⟨h.1, (isRexByte_iff b).mp h.2⟩)
      (decodeOpcode_of_ne hescape rest)
  · exact decode_of_rex_opcode_error hps hc ((isRexByte_iff b).mpr ⟨hlow, hhigh⟩) (decodeOpcode_of_second hb' rest)
  · cases h ▸ reads_decode c bs with
    | error he => exact he rfl
  · have hrm := RmOperand.wf_of_isReg hreg (addrSize c i.form.hasAddressSize)
    rw [decode_encode_eq_admitForm hps (hrex.imp_left Option.isNone_iff_eq_none.mpr) hrm,
      admitForm_of_refused (Form.overrideOk_of_isReg hn hreg), if_pos hreg]
  · rw [decode_encode_eq_admitForm hps (.inr hc) hrm, admitForm_of_refused (Form.overrideOk_of_flat hn hc hflat), hreg]
    rfl

/-! Lengths (30_encoding.md R69). -/

theorem Form.three_le_length (rex : Option Rex) (f : Form) : 3 ≤ f.length rex := by
  unfold Form.length
  omega

theorem LegacyPrefix.lock_sameKind_iff (p : LegacyPrefix) : LegacyPrefix.lock.sameKind p = true ↔ p = .lock := by
  cases p <;> simp [LegacyPrefix.sameKind]

/-- Where there is no LOCK, there is room for it. -/
theorem prefixes_length_le_of_not_locked {f : Form} (h : prefixesOk f.prefixes = true) (hlock : f.locked = false) :
    f.prefixes.length ≤ 2 := by
  have hnot : LegacyPrefix.lock ∉ f.prefixes := by simpa [Form.locked] using hlock
  have hroom : prefixesOk (.lock :: f.prefixes) = true := by
    simp only [prefixesOk, h, Bool.and_true, Bool.not_eq_true', ← Bool.not_eq_true, List.any_eq_true,
      LegacyPrefix.lock_sameKind_iff]
    exact fun ⟨p, hp, hplock⟩ => hnot (hplock ▸ hp)
  exact Nat.le_of_succ_le_succ (prefixes_length_le hroom)

/-- Settles O14: at most three prefixes, REX, the opcode, ModR/M, SIB and a disp32. -/
theorem encodedLengthIsBounded : Obligations.EncodedLengthIsBounded := by
  refine fun i => ⟨i.length_encode, i.form.three_le_length i.rex, fun c h => ?_⟩
  obtain ⟨hprefixes, -⟩ := (i.wf_iff c).mp h
  refine ⟨Form.length_le_of_prefixesOk hprefixes i.rex, fun hlock => ?_⟩
  have hle := prefixes_length_le_of_not_locked hprefixes hlock
  have hrm := i.form.rm.length_le
  unfold Instr.length Form.length
  split <;> omega

end Sys2Proof

/-!
Proofs about the operand (30_encoding.md R53 to R66): the byte register, the address size, the effective address and
the segment of each form, and which bits of an encoding the outcome depends on.

Every address is a sum of registers and displacements at 64 bits, truncated to the address size; truncation passes
through sums and products, which gives the sums of the spec at 16 and 32 bits.
-/

namespace Sys2Proof

/-! Displacements and sums at the address size (30_encoding.md R60, R63, R64). -/

theorem setWidth_signExtend_of_le {w k n : Nat} (h : k ≤ n) (d : BitVec w) :
    (d.signExtend n).setWidth k = d.signExtend k := by
  ext i hi
  rw [BitVec.getElem_setWidth, BitVec.getLsbD_signExtend, BitVec.getElem_signExtend]
  simp only [hi.trans_le h, decide_true, Bool.true_and]
  split <;> simp [*]

theorem toNat_extend (bit : Bool) (field : BitVec 3) : (extend bit field).toNat = 8 * bit.toNat + field.toNat := by
  revert bit field
  decide

theorem AddrSize.trunc_a16_add (x y : Word) :
    AddrSize.a16.trunc (x + y) = (x.setWidth 16 + y.setWidth 16).setWidth 64 :=
  congrArg (BitVec.setWidth 64) (BitVec.setWidth_add x y (by decide))

theorem AddrSize.trunc_a32_add (x y : Word) :
    AddrSize.a32.trunc (x + y) = (x.setWidth 32 + y.setWidth 32).setWidth 64 :=
  congrArg (BitVec.setWidth 64) (BitVec.setWidth_add x y (by decide))

theorem AddrSize.toNat_trunc_a32 (x : Word) : (AddrSize.a32.trunc x).toNat = x.toNat % 2 ^ 32 := by
  simp only [AddrSize.trunc, BitVec.toNat_setWidth]
  omega

theorem Disp16.setWidth_value_disp8 (d : BitVec 8) : (Disp16.disp8 d).value.setWidth 16 = d.signExtend 16 :=
  setWidth_signExtend_of_le (by decide) d

theorem Disp16.setWidth_value_disp16 (d : BitVec 16) : (Disp16.disp16 d).value.setWidth 16 = d := by
  simp [Disp16.value]

/-- The displacement `d` is `v` at 64 bits and `w` at 32 bits. -/
theorem Disp32.value_eq {d : Disp32} {v : Word} {w : BitVec 32}
    (h : match d with
      | .none => v = 0 ∧ w = 0
      | .disp8 d8 => v = d8.signExtend 64 ∧ w = d8.signExtend 32
      | .disp32 d32 => v = d32.signExtend 64 ∧ w = d32) : d.value = v ∧ d.value.setWidth 32 = w := by
  cases d with
  | none =>
    obtain ⟨rfl, rfl⟩ := h
    exact ⟨rfl, rfl⟩
  | disp8 d8 =>
    obtain ⟨rfl, rfl⟩ := h
    exact ⟨rfl, setWidth_signExtend_of_le (by decide) d8⟩
  | disp32 d32 =>
    obtain ⟨rfl, rfl⟩ := h
    exact ⟨rfl, by simpa [Disp32.value] using setWidth_signExtend_of_le (k := 32) (n := 64) (by decide) w⟩

theorem setWidth32_ofNat64 (n : Nat) : (BitVec.ofNat 64 n).setWidth 32 = BitVec.ofNat 32 n :=
  BitVec.setWidth_ofNat_of_le (by decide) n

end Sys2Proof

namespace Sys2Proof.Machine

/-- Settles O4: the eight numbers without REX; the four-bit number with it. -/
theorem registerFormNamesByteRegister : Obligations.RegisterFormNamesByteRegister :=
  ⟨fun _ _ _ => rfl, fun _ r _ _ rm => ⟨extend r.b rm, rfl, toNat_extend r.b rm⟩⟩

/-- Settles O5: each row of the table of R65 is one of the definition. -/
theorem addressSizeByModeAndPrefix : Obligations.AddressSizeByModeAndPrefix :=
  fun _ => ⟨rfl, rfl, rfl, rfl, rfl, rfl, rfl, rfl, rfl, rfl, rfl, rfl, rfl, rfl⟩

/-! Effective addresses by form (30_encoding.md R60 to R63). -/

section

variable (s : State) (rex : Option Rex) (len : Nat)

theorem effectiveAddress_based16 (b : Base16) (d : Disp16) :
    effectiveAddress s .a16 rex len (.based16 b d) =
      ((Base16.value s b).setWidth 16 + d.value.setWidth 16).setWidth 64 :=
  AddrSize.trunc_a16_add _ _

theorem effectiveAddress_based_a32 (rm : BitVec 3) (d : Disp32) :
    effectiveAddress s .a32 rex len (.based rm d) =
      ((s.reg (extend (rexB rex) rm)).setWidth 32 + d.value.setWidth 32).setWidth 64 :=
  AddrSize.trunc_a32_add _ _

end

/-- Settles O6: truncation to 16 bits passes through the sums. -/
theorem effectiveAddressOf16BitForms : Obligations.EffectiveAddressOf16BitForms := by
  refine ⟨by decide, fun s rex len d v hv => ?_, fun s rex len d => ?_, fun rex d d' => ⟨rfl, rfl⟩⟩
  · have hdisp : d.value.setWidth 16 = v := by
      cases d with
      | none => exact hv.symm
      | disp8 d => exact (Disp16.setWidth_value_disp8 d).trans hv.symm
      | disp16 d => exact (Disp16.setWidth_value_disp16 d).trans hv.symm
    have hsum (x y : Word) : (x + y).setWidth 16 = x.setWidth 16 + y.setWidth 16 := BitVec.setWidth_add x y (by decide)
    simp only [List.map_cons, List.map_nil, effectiveAddress_based16, hdisp, Base16.value, hsum]
  · simp [effectiveAddress, AddrSize.trunc]

/-- Settles O7: truncation to 32 bits passes through the sum. -/
theorem effectiveAddressOfBaseForms : Obligations.EffectiveAddressOfBaseForms := by
  refine ⟨fun s rex len rm d v w hd => ?_, fun s rex len d hm => ?_⟩
  · obtain ⟨rfl, rfl⟩ := Disp32.value_eq hd
    exact ⟨rfl, effectiveAddress_based_a32 s rex len rm d⟩
  · simp [effectiveAddress, hm, AddrSize.trunc, setWidth_signExtend_of_le]

theorem scaledIndex_eq_mul (s : State) (rex : Option Rex) (scale : BitVec 2) (index : BitVec 3) :
    scaledIndex s rex scale index =
      (if extend (rexX rex) index = 4#4 then 0 else s.reg (extend (rexX rex) index)) *
        BitVec.ofNat 64 (2 ^ scale.toNat) := by
  have hpow : BitVec.twoPow 64 scale.toNat = BitVec.ofNat 64 (2 ^ scale.toNat) :=
    BitVec.eq_of_toNat_eq (BitVec.toNat_twoPow 64 scale.toNat)
  unfold scaledIndex
  split
  · simp
  · rw [BitVec.shiftLeft_eq_mul_twoPow, hpow]

/-- Settles O8: a shift by the scale is a product, and truncation to 32 bits passes through sums and products. -/
theorem effectiveAddressOfSibForms : Obligations.EffectiveAddressOfSibForms := by
  have hsum (x y : Word) : (x + y).setWidth 32 = x.setWidth 32 + y.setWidth 32 := BitVec.setWidth_add x y (by decide)
  have hmul (x y : Word) : (x * y).setWidth 32 = x.setWidth 32 * y.setWidth 32 := BitVec.setWidth_mul x y (by decide)
  refine ⟨fun s rex len scale index base d v iv w hd hiv => ?_, fun s rex len scale index d iv hiv => ?_⟩
  · obtain ⟨rfl, rfl⟩ := Disp32.value_eq hd
    have hindex : scaledIndex s rex scale index = iv * BitVec.ofNat 64 (2 ^ scale.toNat) :=
      hiv ▸ scaledIndex_eq_mul s rex scale index
    simp only [effectiveAddress, hindex, AddrSize.trunc, hsum, hmul, setWidth32_ofNat64]
    exact ⟨rfl, rfl⟩
  · have hindex : scaledIndex s rex scale index = iv * BitVec.ofNat 64 (2 ^ scale.toNat) :=
      hiv ▸ scaledIndex_eq_mul s rex scale index
    simp only [effectiveAddress, hindex, AddrSize.trunc, hsum, hmul, setWidth32_ofNat64,
      setWidth_signExtend_of_le (show 32 ≤ 64 by decide), BitVec.signExtend_eq, and_self]

theorem effectiveAddressOf_direct {s : State} {f : Form} {d : BitVec 32} (hm : s.mode = .long64)
    (hrm : f.rm = .direct d) (rex : Option Rex) :
    effectiveAddressOf s rex f =
      (if f.hasAddressSize then AddrSize.a32 else .a64).trunc
        (s.pc + BitVec.ofNat 64 (f.length rex) + d.signExtend 64) := by
  simp only [effectiveAddressOf, effectiveAddress, hrm, addrSize, State.ctx, hm, if_true]

/-- Settles O9: the address size is 64 bits, or 32 with 67H, which truncates the sum. -/
theorem effectiveAddressRelativeToNextInstruction : Obligations.EffectiveAddressRelativeToNextInstruction := by
  intro s rex f d hm hrm
  refine ⟨fun h => ?_, fun h => ?_, fun h => ?_⟩
  · rw [effectiveAddressOf_direct hm hrm, h]
    rfl
  · rw [effectiveAddressOf_direct hm hrm, h, if_pos rfl, AddrSize.toNat_trunc_a32]
  · simp [segmentOf, h, hrm, defaultSegment]

/-! Segments (30_encoding.md R66). -/

theorem segmentOf_of_override {f : Form} {n : SegName} (h : f.override = some n) (rex : Option Rex) :
    segmentOf rex f = n := by
  simp [segmentOf, h]

theorem segmentOf_of_no_override {f : Form} (h : f.override = none) (rex : Option Rex) :
    segmentOf rex f = defaultSegment rex f.rm := by
  simp [segmentOf, h]

theorem segmentOfBase_eq (i : BitVec 4) : segmentOfBase i = if i.toNat = 4 ∨ i.toNat = 5 then .ss else .ds := by
  simp only [segmentOfBase, ← BitVec.toNat_inj]
  rfl

/-- Settles O10: the override, else the default segment of the form. -/
theorem segmentOfMemoryForm : Obligations.SegmentOfMemoryForm := by
  refine fun rex f => ⟨fun n hn => segmentOf_of_override hn rex, fun hn => ?_⟩
  rw [segmentOf_of_no_override hn]
  refine ⟨fun rm d hrm => ?_, fun scale index base d hrm => ?_, fun scale index d hrm => ?_, fun d hrm => ?_⟩
  · rw [hrm]
    exact segmentOfBase_eq _
  · rw [hrm]
    exact segmentOfBase_eq _
  · rw [hrm]
    rfl
  · rw [hrm]
    rfl

/-! What the outcome depends on (30_encoding.md R53, R55, R59). -/

/-- The operand has a SIB byte. -/
def HasSib (rm : RmOperand) : Prop :=
  (∃ scale index base d, rm = .sib scale index base d) ∨ ∃ scale index d, rm = .sibNoBase scale index d

/-- REX prefixes that say the same of the operand: both there or neither, with the same B and, where there is a SIB
byte, the same X. -/
structure SameRexBits (rm : RmOperand) (rex rex' : Option Rex) : Prop where
  isSome : rex.isSome = rex'.isSome
  b : rexB rex = rexB rex'
  x : rexX rex = rexX rex' ∨ ¬HasSib rm

section

variable {rm : RmOperand} {rex rex' : Option Rex}

theorem byteRegister_congr (hsome : rex.isSome = rex'.isSome) (hb : rexB rex = rexB rex') (i : BitVec 3) :
    byteRegister rex i = byteRegister rex' i := by
  cases rex with
  | none => cases rex' with
    | none => rfl
    | some r' => cases hsome
  | some r => cases rex' with
    | none => cases hsome
    | some r' => exact congrArg (fun bit => Reg8.low (extend bit i)) hb

theorem defaultSegment_congr (hb : rexB rex = rexB rex') : defaultSegment rex rm = defaultSegment rex' rm := by
  cases rm with
  | based rm d => exact congrArg (fun bit => segmentOfBase (extend bit rm)) hb
  | sib scale index base d => exact congrArg (fun bit => segmentOfBase (extend bit base)) hb
  | based16 b d => cases b <;> rfl
  | _ => rfl

theorem scaledIndex_congr (s : State) (h : rexX rex = rexX rex') (scale : BitVec 2) (index : BitVec 3) :
    scaledIndex s rex scale index = scaledIndex s rex' scale index := by
  unfold scaledIndex
  rw [h]

theorem effectiveAddress_congr (h : SameRexBits rm rex rex') (s : State) (a : AddrSize) (len : Nat) :
    effectiveAddress s a rex len rm = effectiveAddress s a rex' len rm := by
  cases rm with
  | based rm d => simp only [effectiveAddress, h.b]
  | sib scale index base d =>
    have hx := h.x.resolve_right (not_not_intro (.inl ⟨scale, index, base, d, rfl⟩))
    simp only [effectiveAddress, h.b, scaledIndex_congr s hx]
  | sibNoBase scale index d =>
    have hx := h.x.resolve_right (not_not_intro (.inr ⟨scale, index, d, rfl⟩))
    simp only [effectiveAddress, scaledIndex_congr s hx]
  | _ => rfl

/-- The form but for the reg field, and of REX the bits that its operand uses, decide what a SETcc does. -/
theorem setByte_congr {f f' : Form} (hprefixes : f.prefixes = f'.prefixes) (hrm : f.rm = f'.rm)
    (h : SameRexBits f.rm rex rex') (b : Bool) (s : State) : setByte b rex f s = setByte b rex' f' s := by
  obtain ⟨prefixes, reg, rm⟩ := f
  obtain ⟨prefixes', reg', rm'⟩ := f'
  obtain rfl : prefixes = prefixes' := hprefixes
  obtain rfl : rm = rm' := hrm
  have hnone : rex.isNone = rex'.isNone := by rw [← Option.not_isSome, h.isSome, Option.not_isSome]
  have hlength : Form.length rex ⟨prefixes, reg, rm⟩ = Form.length rex' ⟨prefixes, reg', rm⟩ := by
    simp only [Form.length, h.isSome]
  have hsegment : segmentOf rex ⟨prefixes, reg, rm⟩ = segmentOf rex' ⟨prefixes, reg', rm⟩ := by
    simp only [segmentOf, Form.override, defaultSegment_congr h.b]
  have hdestination : destination s rex ⟨prefixes, reg, rm⟩ = destination s rex' ⟨prefixes, reg', rm⟩ := by
    cases rm with
    | reg i => exact congrArg Dest.reg (byteRegister_congr h.isSome h.b i)
    | _ => simp only [destination, effectiveAddressOf, hsegment, hlength, effectiveAddress_congr h, Form.hasAddressSize]
  have hwf : Form.wf s.ctx rex ⟨prefixes, reg, rm⟩ = Form.wf s.ctx rex' ⟨prefixes, reg', rm⟩ := by
    simp only [Form.wf, hnone, Form.hasAddressSize, Form.overrideOk, Form.override]
  unfold setByte
  rw [hwf, hlength, hdestination]
  rfl

end

/-- Settles O31: every meaning is `setByte`, which uses none of the ignored bits. -/
theorem ignoredEncodingBitsDoNotMatter : Obligations.IgnoredEncodingBitsDoNotMatter := by
  intro i j s hcondition hprefixes hrm hsome hb hx
  rw [exec_eq_setByte, exec_eq_setByte, hcondition]
  exact setByte_congr hprefixes hrm ⟨hsome, hb, hx⟩ _ s

end Sys2Proof.Machine

/-!
Proofs about the bytes of an encoding as numbers (30_encoding.md R50 to R67).
-/

namespace Sys2Proof

/-! The prefixes, the REX byte and the opcode (30_encoding.md R50, R51, R58). -/

theorem Rex.toNat_byte (r : Rex) :
    r.byte.toNat = 0x40 + 8 * r.w.toNat + 4 * r.r.toNat + 2 * r.x.toNat + r.b.toNat := by
  obtain ⟨w, r, x, b⟩ := r
  revert w r x b
  decide

section

variable {i : Instr} {op : Byte}

/-- The second opcode byte has 9 and the condition number for its halves. -/
theorem Instr.opcode_eq (hhigh : op.extractLsb' 4 4 = 9#4) (hlow : op.extractLsb' 0 4 = i.condition.number) :
    9#4 ++ i.condition.number = op := by
  rw [← hhigh, ← hlow, highNibble_append_lowNibble]

theorem Instr.encode_of_no_rex (h : i.rex = none) (hhigh : op.extractLsb' 4 4 = 9#4)
    (hlow : op.extractLsb' 0 4 = i.condition.number) :
    i.encode = i.form.prefixes.map LegacyPrefix.byte ++ 0x0F#8 :: op :: i.form.rm.encode i.form.reg := by
  simp [Instr.encode, h, Instr.opcode_eq hhigh hlow]

theorem Instr.encode_of_rex {r : Rex} (h : i.rex = some r) (hhigh : op.extractLsb' 4 4 = 9#4)
    (hlow : op.extractLsb' 0 4 = i.condition.number) :
    i.encode = i.form.prefixes.map LegacyPrefix.byte ++ r.byte :: 0x0F#8 :: op :: i.form.rm.encode i.form.reg := by
  simp [Instr.encode, h, Instr.opcode_eq hhigh hlow]

end

/-- Settles O15: the bytes of an instruction without and with REX, at each row of the opcode map. -/
theorem opcodeBytesOfEveryMnemonic : Obligations.OpcodeBytesOfEveryMnemonic := by
  refine ⟨rfl, rfl, rfl, rfl, rfl, rfl, rfl, rfl, Rex.toNat_byte, fun f r => ?_⟩
  iterate 29 refine ⟨Instr.encode_of_no_rex rfl rfl rfl, Instr.encode_of_rex rfl rfl rfl, ?_⟩
  exact ⟨Instr.encode_of_no_rex rfl rfl rfl, Instr.encode_of_rex rfl rfl rfl⟩

/-! ModR/M, SIB and the displacement (30_encoding.md R54, R61, R64). -/

theorem toNat_modrmByte (mod : BitVec 2) (reg rm : BitVec 3) :
    (modrmByte mod reg rm).toNat = 64 * mod.toNat + 8 * reg.toNat + rm.toNat := by
  have hlow : (mod ++ reg).toNat = 8 * mod.toNat + reg.toNat := by
    rw [BitVec.toNat_append, ← Nat.shiftLeft_add_eq_or_of_lt reg.isLt, Nat.shiftLeft_eq]
    omega
  rw [modrmByte, BitVec.toNat_append, ← Nat.shiftLeft_add_eq_or_of_lt rm.isLt, Nat.shiftLeft_eq, hlow]
  omega

theorem toNat_sibByte (scale : BitVec 2) (index base : BitVec 3) :
    (sibByte scale index base).toNat = 64 * scale.toNat + 8 * index.toNat + base.toNat :=
  toNat_modrmByte scale index base

theorem map_toNat_bytes16 (d : BitVec 16) :
    (bytes16 d).map BitVec.toNat = [d.toNat % 256, d.toNat / 256] := by
  have hhigh : d.toNat / 256 % 256 = d.toNat / 256 := Nat.mod_eq_of_lt (by omega)
  simp [bytes16, Nat.shiftRight_eq_div_pow, hhigh]

theorem map_toNat_bytes32 (d : BitVec 32) :
    (bytes32 d).map BitVec.toNat =
      [d.toNat % 256, d.toNat / 256 % 256, d.toNat / 65536 % 256, d.toNat / 16777216] := by
  have hhigh : d.toNat / 16777216 % 256 = d.toNat / 16777216 := Nat.mod_eq_of_lt (by omega)
  simp [bytes32, Nat.shiftRight_eq_div_pow, hhigh]

theorem Base16.toNat_number (b : Base16) :
    b.number.toNat = match b with
      | .bxSi => 0 | .bxDi => 1 | .bpSi => 2 | .bpDi => 3 | .si => 4 | .di => 5 | .bp => 6 | .bx => 7 := by
  cases b <;> rfl

/-- Settles O60: the fields of ModR/M and SIB and the bytes of the displacement, at each form. -/
theorem operandBytesOfEveryForm : Obligations.OperandBytesOfEveryForm := by
  intro reg rm index base scale b d8 d16 d32
  simp only [RmOperand.encode, List.map_cons, List.map_nil, toNat_modrmByte, toNat_sibByte, map_toNat_bytes16,
    map_toNat_bytes32, Disp16.mod, Disp16.bytes, Disp32.mod, Disp32.bytes, Base16.toNat_number]
  refine ⟨?_, ?_, ?_, ?_, ?_, ?_, ?_, ?_, ?_, ?_, ?_, ?_, ?_⟩ <;> rfl

/-- Settles O21: the decoder reads each word. -/
theorem writtenOutWordsDecode : Obligations.WrittenOutWordsDecode :=
  ⟨rfl, rfl, rfl, rfl, rfl, rfl, rfl, rfl, rfl, rfl, rfl, rfl, rfl, rfl, rfl, rfl, rfl, rfl, rfl, rfl, rfl, rfl⟩

end Sys2Proof

/-!
Proofs about what a SETcc does and leaves unchanged (40_setcc.md R80 to R119).

Every meaning is one operation on the condition of its opcode, so one lemma, `exec_of_ready`, says that an instruction
which nothing stops completes, and with what state; each mnemonic is then its row of the condition table (R80). In the
other direction, `exec_next_of_reg` and `exec_next_of_mem` say what a completed instruction wrote.
-/

namespace Sys2Proof

/-! Conditions (40_setcc.md R80). -/

/-- The condition whose number differs in bit 0 (`conditionOf_xor_one`). -/
def Condition.opposite : Condition → Condition
  | .o => .no
  | .no => .o
  | .b => .ae
  | .ae => .b
  | .e => .ne
  | .ne => .e
  | .be => .a
  | .a => .be
  | .s => .ns
  | .ns => .s
  | .p => .np
  | .np => .p
  | .l => .ge
  | .ge => .l
  | .le => .g
  | .g => .le

theorem conditionOf_xor_one : ∀ n : BitVec 4, conditionOf (n ^^^ 1) = (conditionOf n).opposite := by
  decide

theorem Flags.holds_opposite (f : Flags) (c : Condition) : f.holds c.opposite = !f.holds c := by
  cases c <;> simp [Flags.holds, Condition.opposite, bne]

theorem Flags.holds_conditionOf_xor_one (f : Flags) (n : BitVec 4) :
    f.holds (conditionOf (n ^^^ 1)) = !f.holds (conditionOf n) := by
  rw [conditionOf_xor_one, Flags.holds_opposite]

/-- The number after an even one differs from it in bit 0 alone. -/
theorem add_one_eq_xor_one_of_even : ∀ n : BitVec 4, n.getLsbD 0 = false → n + 1 = n ^^^ 1 := by
  decide

/-! Operands (30_encoding.md R54). -/

theorem RmOperand.exists_reg_of_isReg {rm : RmOperand} (h : rm.isReg = true) : ∃ k, rm = .reg k := by
  cases rm with
  | reg k => exact ⟨k, rfl⟩
  | _ => cases h

end Sys2Proof

namespace Sys2Proof.Machine

theorem flagsOf_congr {r r' : Word} (hcf : r.getLsbD 0 = r'.getLsbD 0) (hpf : r.getLsbD 2 = r'.getLsbD 2)
    (hzf : r.getLsbD 6 = r'.getLsbD 6) (hsf : r.getLsbD 7 = r'.getLsbD 7) (hof : r.getLsbD 11 = r'.getLsbD 11) :
    flagsOf r = flagsOf r' := by
  simp only [flagsOf, hcf, hpf, hzf, hsf, hof]

/-- Settles O1: the table is that of `Flags.holds`, and the number after an even one is that of the opposite
condition. -/
theorem conditionsFollowTheFiveFlags : Obligations.ConditionsFollowTheFiveFlags := by
  refine ⟨fun f => ⟨rfl, rfl, rfl, rfl, rfl, rfl, rfl, rfl, rfl, rfl, rfl, rfl, rfl, rfl, rfl, rfl⟩,
    fun f n heven => ?_, fun r r' n hcf hpf hzf hsf hof => ?_⟩
  · rw [add_one_eq_xor_one_of_even n heven, f.holds_conditionOf_xor_one]
  · rw [flagsOf_congr hcf hpf hzf hsf hof]

theorem setValue_not_sub_one (b : Bool) : setValue (!b) - 1 = if b then 0xFF else 0x00 := by
  cases b <;> rfl

/-- Settles O2: the condition of number `n xor 1` is the opposite one. -/
theorem decrementedOppositeIsAllOnes : Obligations.DecrementedOppositeIsAllOnes := by
  intro f n
  rw [f.holds_conditionOf_xor_one, setValue_not_sub_one]

/-! When nothing stops an instruction (40_setcc.md R82). -/

section

variable {s : State} {rex : Option Rex} {f : Form}

theorem State.ready_iff :
    s.ready rex f = true ↔ s.issues rex f = true ∧ f.locked = false ∧ s.destinationReady rex f = true := by
  simp [State.ready, and_assoc]

theorem destination_of_mem (h : f.rm.isReg = false) (s : State) (rex : Option Rex) :
    destination s rex f = .mem (segmentOf rex f) (effectiveAddressOf s rex f) := by
  cases hrm : f.rm with
  | reg rm =>
    rw [hrm] at h
    cases h
  | _ => simp [destination, hrm]

theorem State.destinationReady_of_mem (h : f.rm.isReg = false) :
    s.destinationReady rex f = true ↔ ∃ p, s.storesTo rex f = some p ∧ s.storeRefusal p = none := by
  cases hp : s.storesTo rex f <;> simp [State.destinationReady, h, hp]

theorem State.afterSet_of_reg {rm : BitVec 3} (h : f.rm = .reg rm) (b : Bool) :
    s.afterSet b rex f =
      (s.writeReg8 (byteRegister rex rm) (setValue b)).retire (s.pc + BitVec.ofNat 64 (f.length rex)) := by
  simp [State.afterSet, h]

theorem State.afterSet_of_mem {p : Word} (h : f.rm.isReg = false) (hp : s.storesTo rex f = some p) (b : Bool) :
    s.afterSet b rex f = (s.writeByte p (setValue b)).retire (s.pc + BitVec.ofNat 64 (f.length rex)) := by
  cases hrm : f.rm with
  | reg rm =>
    rw [hrm] at h
    cases h
  | _ => simp [State.afterSet, hrm, hp]

end

/-- An instruction that nothing stops completes, with the byte of the condition of its opcode. -/
theorem exec_of_ready {i : Instr} {s : State} {b : Bool} (h : s.ready i.rex i.form = true)
    (hb : s.test i.condition = b) : exec i s = .next (s.afterSet b i.rex i.form) := by
  obtain ⟨hissues, hlocked, hready⟩ := State.ready_iff.mp h
  subst hb
  cases hreg : i.form.rm.isReg with
  | true =>
    obtain ⟨rm, hrm⟩ := RmOperand.exists_reg_of_isReg hreg
    rw [exec_of_reg hissues hlocked (destination_of_reg hrm s i.rex), State.afterSet_of_reg hrm]
    rfl
  | false =>
    obtain ⟨p, hp, hr⟩ := (State.destinationReady_of_mem hreg).mp hready
    have hd := destination_of_mem hreg s i.rex
    rw [exec_of_store ⟨hissues, hlocked, hd⟩ ((State.storesTo_mem hd p).mp hp) hr, State.afterSet_of_mem hreg hp]
    rfl

/-! The mnemonics, each at its row of the condition table: the `rfl` of a component is that row. -/

/-- Settles O22: the six mnemonics on CF. -/
theorem carrySetccComplete : Obligations.CarrySetccComplete :=
  ⟨fun _ _ h => ⟨exec_of_ready h rfl, exec_of_ready h rfl, exec_of_ready h rfl, exec_of_ready h rfl,
      exec_of_ready h rfl, exec_of_ready h rfl⟩,
    fun _ _ _ h => ⟨exec_of_ready h rfl, exec_of_ready h rfl, exec_of_ready h rfl, exec_of_ready h rfl,
      exec_of_ready h rfl, exec_of_ready h rfl⟩⟩

/-- Settles O23: the four mnemonics on CF and ZF. -/
theorem aboveSetccComplete : Obligations.AboveSetccComplete :=
  ⟨fun _ _ h => ⟨exec_of_ready h rfl, exec_of_ready h rfl, exec_of_ready h rfl, exec_of_ready h rfl⟩,
    fun _ _ _ h => ⟨exec_of_ready h rfl, exec_of_ready h rfl, exec_of_ready h rfl, exec_of_ready h rfl⟩⟩

/-- Settles O24: the four mnemonics on ZF. -/
theorem equalSetccComplete : Obligations.EqualSetccComplete :=
  ⟨fun _ _ h => ⟨exec_of_ready h rfl, exec_of_ready h rfl, exec_of_ready h rfl, exec_of_ready h rfl⟩,
    fun _ _ _ h => ⟨exec_of_ready h rfl, exec_of_ready h rfl, exec_of_ready h rfl, exec_of_ready h rfl⟩⟩

/-- Settles O25: the eight mnemonics on SF and OF, four of them on ZF too. -/
theorem signedSetccComplete : Obligations.SignedSetccComplete :=
  ⟨fun _ _ h => ⟨exec_of_ready h rfl, exec_of_ready h rfl, exec_of_ready h rfl, exec_of_ready h rfl,
      exec_of_ready h rfl, exec_of_ready h rfl, exec_of_ready h rfl, exec_of_ready h rfl⟩,
    fun _ _ _ h => ⟨exec_of_ready h rfl, exec_of_ready h rfl, exec_of_ready h rfl, exec_of_ready h rfl,
      exec_of_ready h rfl, exec_of_ready h rfl, exec_of_ready h rfl, exec_of_ready h rfl⟩⟩

/-- Settles O26: the four mnemonics on OF or SF alone. -/
theorem signAndOverflowSetccComplete : Obligations.SignAndOverflowSetccComplete :=
  ⟨fun _ _ h => ⟨exec_of_ready h rfl, exec_of_ready h rfl, exec_of_ready h rfl, exec_of_ready h rfl⟩,
    fun _ _ _ h => ⟨exec_of_ready h rfl, exec_of_ready h rfl, exec_of_ready h rfl, exec_of_ready h rfl⟩⟩

/-- Settles O27: the four mnemonics on PF. -/
theorem paritySetccComplete : Obligations.ParitySetccComplete :=
  ⟨fun _ _ h => ⟨exec_of_ready h rfl, exec_of_ready h rfl, exec_of_ready h rfl, exec_of_ready h rfl⟩,
    fun _ _ _ h => ⟨exec_of_ready h rfl, exec_of_ready h rfl, exec_of_ready h rfl, exec_of_ready h rfl⟩⟩

/-! What a completed instruction wrote (40_setcc.md R81, R83). -/

section

variable {i : Instr} {s t : State}

/-- A completed register form wrote its byte register. -/
theorem exec_next_of_reg {rm : BitVec 3} (h : exec i s = .next t) (hrm : i.form.rm = .reg rm) :
    t = (s.writeReg8 (byteRegister i.rex rm) (setValue (s.test i.condition))).retire
      (s.pc + BitVec.ofNat 64 i.length) := by
  obtain ⟨hissues, hlocked, -⟩ := exec_next h
  rw [exec_of_reg hissues hlocked (destination_of_reg hrm s i.rex)] at h
  exact (Host.Outcome.next.inj h).symm

/-- A completed memory form wrote the byte at the address it stores to. -/
theorem exec_next_of_mem (h : exec i s = .next t) (hmem : i.form.rm.isReg = false) :
    ∃ p, s.storesTo i.rex i.form = some p ∧
      t = (s.writeByte p (setValue (s.test i.condition))).retire (s.pc + BitVec.ofNat 64 i.length) := by
  obtain ⟨-, -, ⟨k, hd, -⟩ | ⟨n, ea, p, hd, hp, -, ht⟩⟩ := exec_next h
  · rw [destination_of_mem hmem] at hd
    cases hd
  · exact ⟨p, (State.storesTo_mem hd p).mpr hp, ht⟩

end

theorem State.readReg8_writeReg8_same (s : State) (k : Reg8) (v : Byte) : (s.writeReg8 k v).readReg8 k = v := by
  cases k with
  | low i =>
    rw [State.readReg8, State.reg_writeReg8_same]
    exact Reg8.insert_low_written ..
  | high i =>
    rw [State.readReg8, State.reg_writeReg8_same]
    exact Reg8.insert_high_written ..

theorem State.retire_readReg8 (s : State) (pc' : Word) (k : Reg8) : (s.retire pc').readReg8 k = s.readReg8 k := rfl

/-- Settles O28: the byte written is read back from its register or its address. -/
theorem everySetccWritesItsByte : Obligations.EverySetccWritesItsByte := by
  intro i s hready
  have h := exec_of_ready hready rfl
  refine ⟨_, h, exec_next_pc h, fun rm hrm => ?_, fun hmem => ?_⟩
  · rw [exec_next_of_reg h hrm, State.retire_readReg8, State.readReg8_writeReg8_same]
    rfl
  · obtain ⟨p, hp, ht⟩ := exec_next_of_mem h hmem
    refine ⟨p, hp, ?_⟩
    rw [ht, State.retire_readByte, State.readByte_writeByte_same]
    rfl

/-- Settles O29: a completed instruction is one write to a byte register or one write to a byte of memory, and each
keeps the rest. -/
theorem setccFrame : Obligations.SetccFrame := by
  intro i s t h
  have hsetting := exec_next_sameSetting h
  refine ⟨hsetting, exec_next_draws h, State.flags_eq_of_sameSetting hsetting, fun rm hrm => ?_, fun hmem => ?_⟩
  · obtain rfl := exec_next_of_reg h hrm
    obtain ⟨hlow, hhigh⟩ := byteRegisterWriteKeepsOtherBits
    refine ⟨fun q => rfl, fun j hj => s.reg_writeReg8_other _ hj, fun k hk => ?_, fun k hk => ?_⟩
    · obtain ⟨-, habove, -⟩ := hlow s k (setValue (s.test i.condition))
      rwa [hk]
    · obtain ⟨-, habove, hbelow, -⟩ := hhigh s k (setValue (s.test i.condition))
      rw [hk]
      exact ⟨habove, hbelow⟩
  · obtain ⟨p, hp, rfl⟩ := exec_next_of_mem h hmem
    refine ⟨fun j => rfl, fun p' hp' q hq => ?_, by rw [hp]; rfl⟩
    obtain rfl : p = p' := Option.some.inj (hp.symm.trans hp')
    exact s.readByte_writeByte_other _ hq

/-! A step (40_setcc.md R82). -/

theorem State.decodeRefusal_of_ne_truncated (s : State) {e : DecodeRefusal} (h : e ≠ .truncated) :
    s.decodeRefusal e = .decoding e := by
  cases e with
  | truncated => exact absurd rfl h
  | _ => rfl

/-- Settles O51: a step is the decoder's answer at `pc`. -/
theorem stepRunsDecodedInstruction : Obligations.StepRunsDecodedInstruction := by
  refine ⟨fun s i rest htrap hbreak h => ?_, fun s e htrap hbreak h he => ?_⟩
  · exact step_of_decode_ok (s.debugActive_eq_false_iff.mpr ⟨htrap, hbreak⟩) h
  · rw [step_of_decode_error (s.debugActive_eq_false_iff.mpr ⟨htrap, hbreak⟩) h, s.decodeRefusal_of_ne_truncated he]

end Sys2Proof.Machine

/-!
Proofs about exceptions (60_exceptions.md R130 to R158): which fault an instruction answers, and when.

Two facts carry them. `exec_fault_iff` says where a fault can come from: LOCK, or the address of a memory destination
that does not resolve. `State.resolve_eq_error_iff` says what stops an address: the segment or canonical check of the
mode, and after it a page fault. What is left is that check in each mode, where an offset outside the limit and an
address that is not canonical raise one exception, `State.addressFault`.
-/

namespace Sys2Proof.Machine

section

variable {i : Instr} {s : State} {n : SegName} {ea : Word} {x : Fault}

/-! Where a fault comes from (60_exceptions.md R148). -/

/-- LOCK is found before the destination is looked at. -/
theorem exec_of_locked (hissues : s.issues i.rex i.form = true) (hlocked : i.form.locked = true) :
    exec i s = .fault .ud := by
  obtain ⟨hwf, hrange⟩ := (Bool.and_eq_true _ _).mp hissues
  simp [exec_eq_setByte, setByte, hwf, State.nextPc, hrange, hlocked, raise]

theorem State.addresses_isMem (ha : s.addresses i n ea) : i.form.rm.isReg = false := by
  obtain ⟨-, -, hd⟩ := ha
  obtain ⟨hmem, -⟩ := destination_isMem hd
  exact hmem

/-- An instruction that reaches its memory destination is the write to it. -/
theorem exec_of_addresses (ha : s.addresses i n ea) :
    exec i s =
      s.complete (.mem n ea) (setValue (s.test i.condition)) (s.pc + BitVec.ofNat 64 i.length) := by
  obtain ⟨hissues, hlocked, hd⟩ := ha
  obtain ⟨hwf, hrange⟩ := (Bool.and_eq_true _ _).mp hissues
  simp [exec_eq_setByte, setByte, hwf, State.nextPc, hrange, hlocked, hd, Instr.length]

/-- A write faults exactly when its destination is a memory byte whose address does not resolve. -/
theorem State.complete_eq_fault_iff (s : State) (d : Dest) (v : Byte) (pc' : Word) :
    s.complete d v pc' = .fault x ↔ ∃ n ea, d = .mem n ea ∧ s.resolve n ea = .error x := by
  obtain ⟨k, rfl, hc⟩ | ⟨n, ea, y, rfl, hres, hc⟩ | ⟨n, ea, p, r, rfl, hres, -, hc⟩ | ⟨n, ea, p, rfl, hres, -, hc⟩ :=
    s.complete_cases d v pc'
  · simp [hc]
  · simp [hc, hres]
  · simp [hc, hres]
  · simp [hc, hres]

theorem exec_fault_iff_resolve (ha : s.addresses i n ea) : exec i s = .fault x ↔ s.resolve n ea = .error x := by
  rw [exec_of_addresses ha, State.complete_eq_fault_iff]
  simp

/-- The two sources of a fault. -/
theorem exec_fault_iff :
    exec i s = .fault x ↔
      (s.issues i.rex i.form = true ∧ i.form.locked = true ∧ x = .ud) ∨
        ∃ n ea, s.addresses i n ea ∧ s.resolve n ea = .error x := by
  refine ⟨fun h => ?_, ?_⟩
  · rw [exec_eq_setByte] at h
    obtain ⟨-, e⟩ | ⟨-, -, e⟩ | ⟨hissues, hlocked, e⟩ | ⟨hissues, hlocked, e⟩ :=
      setByte_cases (s.test i.condition) i.rex i.form s <;> rw [e] at h
    · cases h
    · cases h
    · cases h
      exact .inl ⟨hissues, hlocked, rfl⟩
    · obtain ⟨n, ea, hd, hres⟩ := (s.complete_eq_fault_iff _ _ _).mp h
      exact .inr ⟨n, ea, ⟨hissues, hlocked, hd⟩, hres⟩
  · rintro (⟨hissues, hlocked, rfl⟩ | ⟨n, ea, ha, hres⟩)
    · exact exec_of_locked hissues hlocked
    · exact (exec_fault_iff_resolve ha).mpr hres

/-! What stops an address (20_memory.md R40, R41). -/

theorem State.translate_eq_pageFault_iff (s : State) (a : Word) (write : Bool) (code : BitVec 32) :
    s.translate a write = .pageFault code ↔
      s.pagingOn = true ∧ translateBy s.cfg.translations a write s.user = .pageFault code := by
  cases h : s.pagingOn with
  | false => simp [s.translate_paging_off h]
  | true => simp [s.translate_paging_on h]

/-- The check of the mode comes first, and a page fault only where it finds nothing. -/
theorem State.resolve_eq_error_iff (s : State) (n : SegName) (ea : Word) (x : Fault) :
    s.resolve n ea = .error x ↔
      s.segmentFault n ea = some x ∨
        (s.segmentFault n ea = none ∧
          ∃ code, x = .pf code (s.linear n ea) ∧ s.pagingOn = true ∧
            translateBy s.cfg.translations (s.linear n ea) true s.user = .pageFault code) := by
  simp only [← State.translate_eq_pageFault_iff]
  obtain ⟨y, hf, hr⟩ | ⟨code, hf, ht, hr⟩ | ⟨p, hf, ht, hr⟩ := s.resolve_cases n ea
  · simp [hf, hr]
  · simp [hf, ht, hr, eq_comm]
  · simp [hf, ht, hr]

theorem exec_of_segmentFault (ha : s.addresses i n ea) (h : s.segmentFault n ea = some x) : exec i s = .fault x :=
  (exec_fault_iff_resolve ha).mpr ((s.resolve_eq_error_iff n ea x).mpr (.inl h))

/-! The check of each mode, where it raises an exception (20_memory.md R41). -/

/-- The error code of #SS and #GP: 0, and none in real-address mode (60_exceptions.md R130, R137, R138). -/
def State.zeroCode (s : State) : Option (BitVec 32) := if s.mode = .real then none else some 0

/-- The exception of an address that is outside the limit or not canonical: #SS through SS, #GP through any other
segment (60_exceptions.md R133, R135, R137 to R140, R143, R144). -/
def State.addressFault (s : State) (n : SegName) : Fault := if n = .ss then .ss s.zeroCode else .gp s.zeroCode

theorem State.addressFault_ss (s : State) : s.addressFault .ss = .ss s.zeroCode := rfl

theorem State.addressFault_of_ne_ss (s : State) (h : n ≠ .ss) : s.addressFault n = .gp s.zeroCode := if_neg h

theorem State.zeroCode_real (h : s.mode = .real) : s.zeroCode = none := if_pos h

theorem State.zeroCode_of_ne_real (h : s.mode ≠ .real) : s.zeroCode = some 0 := if_neg h

theorem State.zeroCode_of_prot_or_compat (hm : s.mode = .prot ∨ s.mode = .compat) : s.zeroCode = some 0 :=
  State.zeroCode_of_ne_real (by obtain hm | hm := hm <;> simp [hm])

/-- Real-address and virtual-8086 mode check the limit alone. -/
theorem State.segmentFault_eq_of_real_or_v86 (hm : s.mode = .real ∨ s.mode = .v86) (n : SegName) (ea : Word) :
    s.segmentFault n ea = if (s.seg n).outsideLimit ea then some (s.addressFault n) else none := by
  obtain hm | hm := hm <;> simp [State.segmentFault, hm, State.addressFault, State.zeroCode, apply_ite some]

/-- 64-bit mode checks canonical form alone. -/
theorem State.segmentFault_eq_of_long64 (hm : s.mode = .long64) (n : SegName) (ea : Word) :
    s.segmentFault n ea = if canonical s.cfg.vaBits (s.linear n ea) then none else some (s.addressFault n) := by
  simp [State.segmentFault, hm, State.addressFault, State.zeroCode, apply_ite some]

/-- Protected and compatibility mode check the limit, then writability, and a NULL selector but in SS. Through a segment
other than SS the three raise one exception, so their order matters for SS alone. -/
theorem State.segmentFault_eq_of_prot_or_compat (hm : s.mode = .prot ∨ s.mode = .compat) (n : SegName) (ea : Word) :
    s.segmentFault n ea =
      if (s.seg n).outsideLimit ea then some (s.addressFault n)
      else if s.nonWritable n = true ∨ n ≠ .ss ∧ (s.seg n).isNull = true then some (.gp s.zeroCode)
      else none := by
  have hcode := State.zeroCode_of_prot_or_compat hm
  by_cases hss : n = .ss
  · subst hss
    obtain hm | hm := hm <;> simp [State.segmentFault, hm, State.addressFault_ss, hcode]
  · by_cases hcs : n = .cs
    · subst hcs
      obtain hm | hm := hm <;> simp [State.segmentFault, hm, State.nonWritable, s.addressFault_of_ne_ss, hcode]
    · obtain hm | hm := hm <;> cases hl : (s.seg n).outsideLimit ea <;>
        simp [State.segmentFault, hm, hss, hcs, hl, s.addressFault_of_ne_ss, hcode]

/-- The check looks at no other segment register. -/
theorem State.segmentFault_congr_of_prot_or_compat {t : State} (hs : s.mode = .prot ∨ s.mode = .compat)
    (ht : t.mode = .prot ∨ t.mode = .compat) (hseg : t.seg n = s.seg n) (ea : Word) :
    t.segmentFault n ea = s.segmentFault n ea := by
  rw [State.segmentFault_eq_of_prot_or_compat hs, State.segmentFault_eq_of_prot_or_compat ht]
  simp only [State.addressFault, State.zeroCode_of_prot_or_compat hs, State.zeroCode_of_prot_or_compat ht,
    State.nonWritable, hseg]

/-- The modes, by the check they make. -/
theorem State.mode_cases (s : State) :
    (s.mode = .real ∨ s.mode = .v86) ∨ (s.mode = .prot ∨ s.mode = .compat) ∨ s.mode = .long64 := by
  cases s.mode <;> decide

theorem State.segmentFault_of_outsideLimit (hm : s.mode ≠ .long64) (h : (s.seg n).outsideLimit ea = true) :
    s.segmentFault n ea = some (s.addressFault n) := by
  obtain hmode | hmode | hmode := s.mode_cases
  · rw [State.segmentFault_eq_of_real_or_v86 hmode, if_pos h]
  · rw [State.segmentFault_eq_of_prot_or_compat hmode, if_pos h]
  · exact absurd hmode hm

/-- Every exception of the check is that of an address outside, or #GP. -/
theorem State.segmentFault_eq_some (h : s.segmentFault n ea = some x) :
    x = s.addressFault n ∨ x = .gp s.zeroCode := by
  obtain hmode | hmode | hmode := s.mode_cases
  · rw [State.segmentFault_eq_of_real_or_v86 hmode] at h
    split_ifs at h
    exact .inl (Option.some.inj h).symm
  · rw [State.segmentFault_eq_of_prot_or_compat hmode] at h
    split_ifs at h
    · exact .inl (Option.some.inj h).symm
    · exact .inr (Option.some.inj h).symm
  · rw [State.segmentFault_eq_of_long64 hmode] at h
    split_ifs at h
    exact .inl (Option.some.inj h).symm

theorem State.segmentFault_ne_pf (s : State) (n : SegName) (ea : Word) (code : BitVec 32) (a : Word) :
    s.segmentFault n ea ≠ some (.pf code a) := by
  intro h
  obtain hx | hx := State.segmentFault_eq_some h
  · unfold State.addressFault at hx
    split_ifs at hx
  · cases hx

/-- What an address outside the limit or not canonical answers, with the error code of the mode. -/
theorem exec_of_addressFault (ha : s.addresses i n ea) (h : s.segmentFault n ea = some (s.addressFault n)) :
    (n ≠ .ss → exec i s = .fault (.gp s.zeroCode)) ∧ (n = .ss → exec i s = .fault (.ss s.zeroCode)) := by
  have hexec := exec_of_segmentFault ha h
  refine ⟨fun hn => ?_, fun hn => ?_⟩
  · rwa [s.addressFault_of_ne_ss hn] at hexec
  · subst hn
    exact hexec

theorem exec_of_outsideLimit (ha : s.addresses i n ea) (hm : s.mode ≠ .long64)
    (h : (s.seg n).outsideLimit ea = true) :
    (n ≠ .ss → exec i s = .fault (.gp s.zeroCode)) ∧ (n = .ss → exec i s = .fault (.ss s.zeroCode)) :=
  exec_of_addressFault ha (State.segmentFault_of_outsideLimit hm h)

/-- Where the check of the mode finds nothing, only a page fault is left. -/
theorem exec_fault_of_no_segmentFault (ha : s.addresses i n ea) (hnone : s.segmentFault n ea = none)
    (h : exec i s = .fault x) : s.pagingOn = true ∧ ∃ code a, x = .pf code a := by
  obtain hsome | ⟨-, code, hx, hon, -⟩ := (s.resolve_eq_error_iff n ea x).mp ((exec_fault_iff_resolve ha).mp h)
  · rw [hnone] at hsome
    cases hsome
  · exact ⟨hon, code, _, hx⟩

end

/-! LOCK and the order of the checks (60_exceptions.md R131, R148). -/

/-- Settles O35: the check for LOCK comes before the destination. -/
theorem lockPrefixRaisesInvalidOpcode : Obligations.LockPrefixRaisesInvalidOpcode :=
  fun _ _ hissues hlocked => ⟨exec_of_locked hissues hlocked, rfl⟩

/-- The table of `Translate` says nothing of where an instruction stores, nor of the check on that address. -/
theorem State.addresses_translations {s : State} {i : Instr} {n : SegName} {ea : Word} (ts : List TranslateEntry)
    (h : s.addresses i n ea) : ({ s with cfg := { s.cfg with translations := ts } }).addresses i n ea := h

theorem State.segmentFault_translations (s : State) (ts : List TranslateEntry) (n : SegName) (ea : Word) :
    ({ s with cfg := { s.cfg with translations := ts } }).segmentFault n ea = s.segmentFault n ea := rfl

/-- An instruction issues by CS alone of the segment registers. -/
theorem State.issues_translations_data (s : State) (ts : List TranslateEntry) (data : SegReg) (rex : Option Rex)
    (f : Form) :
    ({ s with cfg := { s.cfg with translations := ts },
              segs := ⟨data, s.segs.cs, data, data, data, data⟩ } : State).issues rex f = s.issues rex f := rfl

/-- Settles O45: each check depends on nothing that a later one reads. -/
theorem segmentFaultComesBeforePageFault : Obligations.SegmentFaultComesBeforePageFault := by
  refine ⟨fun i s n ea x ts ha h => ?_, fun i s ts data hissues hlocked => ?_⟩
  · exact exec_of_segmentFault (State.addresses_translations ts ha) ((s.segmentFault_translations ts n ea).trans h)
  · exact exec_of_locked ((s.issues_translations_data ts data i.rex i.form).trans hissues) hlocked

/-- Settles O46: the table of R130. -/
theorem exceptionVectorsAndCodes : Obligations.ExceptionVectorsAndCodes :=
  fun _ _ _ => ⟨⟨rfl, rfl, rfl⟩, ⟨rfl, rfl, rfl⟩, ⟨rfl, rfl, rfl⟩, rfl, rfl, rfl⟩

/-! All faults, and page faults (60_exceptions.md R130, R136, R141, R145, R147). -/

/-- Settles O44: LOCK, or an address that does not resolve, for one of the reasons of `State.resolve_eq_error_iff`. -/
theorem onlyTheListedFaults : Obligations.OnlyTheListedFaults := by
  intro i s x h
  obtain ⟨-, hlocked, hx⟩ | ⟨n, ea, ha, hres⟩ := exec_fault_iff.mp h
  · exact .inl ⟨hx, hlocked⟩
  · refine .inr ⟨State.addresses_isMem ha, n, ea, ha, ?_⟩
    obtain hsome | ⟨-, code, hx⟩ := (s.resolve_eq_error_iff n ea x).mp hres
    · obtain hx | hx := State.segmentFault_eq_some hsome
      · by_cases hn : n = .ss
        · subst hn
          exact .inl ⟨hx, rfl⟩
        · exact .inr (.inl (hx.trans (s.addressFault_of_ne_ss hn)))
      · exact .inr (.inl hx)
    · exact .inr (.inr ⟨code, hx⟩)

section

variable {s : State}

/-! Paging and privilege by mode (20_memory.md R40; 60_exceptions.md R154). -/

theorem State.pagingOn_of_long64_or_compat (hm : s.mode = .long64 ∨ s.mode = .compat) : s.pagingOn = true := by
  obtain hm | hm := hm <;> simp [State.pagingOn, hm]

theorem State.pagingOn_real (hm : s.mode = .real) : s.pagingOn = false := by simp [State.pagingOn, hm]

theorem State.pagingOn_of_prot_or_v86 (hm : s.mode = .prot ∨ s.mode = .v86) : s.pagingOn = s.paging := by
  obtain hm | hm := hm <;> simp [State.pagingOn, hm]

theorem State.user_v86 (hm : s.mode = .v86) : s.user = true := by simp [State.user, State.cpl, hm]

theorem State.cpl_of_selector (hm : s.mode = .prot ∨ s.mode = .compat ∨ s.mode = .long64) :
    s.cpl = s.segs.cs.selector.extractLsb' 0 2 := by
  obtain hm | hm | hm := hm <;> simp [State.cpl, hm]

theorem State.user_iff_of_selector (hm : s.mode = .prot ∨ s.mode = .compat ∨ s.mode = .long64) :
    s.user = true ↔ s.segs.cs.selector.toNat % 4 = 3 := by
  simp [State.user, State.cpl_of_selector hm, ← BitVec.toNat_inj]

end

/-- Settles O39: `State.resolve_eq_error_iff`, read both ways. -/
theorem pageFaultIsRaisedAfterSegmentChecks : Obligations.PageFaultIsRaisedAfterSegmentChecks := by
  refine ⟨fun i s n ea code ha hon hnone ht => ?_, fun s => ⟨State.pagingOn_of_long64_or_compat, State.pagingOn_real,
    State.pagingOn_of_prot_or_v86, State.user_v86, State.user_iff_of_selector⟩, fun i s code a h => ?_⟩
  · exact (exec_fault_iff_resolve ha).mpr ((s.resolve_eq_error_iff n ea _).mpr (.inr ⟨hnone, code, rfl, hon, ht⟩))
  · obtain ⟨-, -, hx⟩ | ⟨n, ea, ha, hres⟩ := exec_fault_iff.mp h
    · cases hx
    · obtain hsome | ⟨hnone, code', hx, hon, ht⟩ := (s.resolve_eq_error_iff n ea _).mp hres
      · exact absurd hsome (s.segmentFault_ne_pf n ea code a)
      · cases hx
        exact ⟨hon, n, ea, ha, hnone, rfl, ht⟩

/-! Protected mode (60_exceptions.md R132 to R135). -/

section

variable {i : Instr} {s : State} {n : SegName} {ea : Word}

/-- A refused segment raises #GP(0), through SS where the limit is kept. -/
theorem exec_of_prot_segment (hm : s.mode = .prot) (ha : s.addresses i n ea)
    (hsegment : s.nonWritable n = true ∨ n ≠ .ss ∧ (s.seg n).isNull = true)
    (hss : n ≠ .ss ∨ (s.seg n).outsideLimit ea = false) : exec i s = .fault (.gp (some 0)) := by
  rw [← State.zeroCode_of_prot_or_compat (.inl hm)]
  cases hlimit : (s.seg n).outsideLimit ea with
  | true =>
    have hn : n ≠ .ss := hss.resolve_right (by simp [hlimit])
    obtain ⟨hgp, -⟩ := exec_of_outsideLimit ha (by simp [hm]) hlimit
    exact hgp hn
  | false =>
    refine exec_of_segmentFault ha ?_
    rw [State.segmentFault_eq_of_prot_or_compat (.inl hm), if_neg (by simp [hlimit]), if_pos hsegment]

end

/-- Settles O36: a segment that is not writable, and CS is none that is. -/
theorem protectedModeNonWritableSegmentFaults : Obligations.ProtectedModeNonWritableSegmentFaults := by
  refine fun i s n ea hm ha => ⟨fun hw hss => exec_of_prot_segment hm ha (.inl ?_) hss, fun hcs => ?_⟩
  · simp [State.nonWritable, hw]
  · subst hcs
    exact exec_of_prot_segment hm ha (.inl rfl) (.inl nofun)

/-- A limit is a 32-bit number, so the next offset does not wrap. -/
theorem limit_lt_next (l : BitVec 32) : l.setWidth 64 < l.setWidth 64 + 1 := by
  have hlimit := toNat_limit l
  have hlt := l.isLt
  bv_omega

/-- Settles O37: the exception of an address outside, in protected mode. -/
theorem protectedModeSegmentLimitFaults : Obligations.ProtectedModeSegmentLimitFaults := by
  refine ⟨fun i s n ea hm ha hlimit => ?_, fun r hup => ⟨?_, ?_⟩⟩
  · rw [← State.zeroCode_of_prot_or_compat (.inl hm)]
    exact exec_of_outsideLimit ha (by simp [hm]) hlimit
  · simp [← Bool.not_eq_true, SegReg.outsideLimit_expandUp hup]
  · exact (SegReg.outsideLimit_expandUp hup _).mpr (limit_lt_next r.limit)

/-- Settles O38: the selector is that of the segment used, and in SS it is not looked at. -/
theorem protectedModeNullSelectorFaults : Obligations.ProtectedModeNullSelectorFaults := by
  refine fun i s n ea hm ha => ⟨fun hn hsel => ?_, fun g hg => ?_, fun hn hw hlimit => ?_⟩
  · have hss : n ≠ .ss := by obtain rfl | rfl | rfl | rfl := hn <;> nofun
    have hnull : (s.seg n).isNull = true := by
      by_contra hne
      have hle := (s.seg n).isNull_eq_false_iff.mp (Bool.eq_false_of_not_eq_true hne)
      omega
    exact exec_of_prot_segment hm ha (.inr ⟨hss, hnull⟩) (.inl hss)
  · exact State.segmentFault_congr_of_prot_or_compat (t := { s with segs := g }) (.inl hm) (.inl hm) hg ea
  · subst hn
    exact (State.segmentFault_prot_or_compat (.inl hm) .ss ea).mpr
      ⟨(s.nonWritable_eq_false_iff .ss).mpr ⟨nofun, hw⟩, hlimit, .inl rfl⟩

/-! Real-address and virtual-8086 mode (60_exceptions.md R137 to R141). -/

theorem toNat_trunc_a16_lt (x : Word) : (AddrSize.a16.trunc x).toNat < 2 ^ 16 := by
  simp only [AddrSize.trunc, BitVec.toNat_setWidth]
  omega

/-- At address size 16 every offset is below 10000H. -/
theorem State.addresses_a16_lt {i : Instr} {s : State} {n : SegName} {ea : Word} (ha : s.addresses i n ea)
    (h : addrSize s.ctx i.form.hasAddressSize = .a16) : ea.toNat < 2 ^ 16 := by
  obtain ⟨-, -, hd⟩ := ha
  obtain ⟨-, -, rfl⟩ := destination_isMem hd
  rw [effectiveAddressOf, h]
  exact toNat_trunc_a16_lt _

/-- Settles O40: the limit is the only check, and there is no paging. -/
theorem realModeLimitFaultsWithoutErrorCode : Obligations.RealModeLimitFaultsWithoutErrorCode := by
  refine ⟨fun i s n ea hm ha => ⟨fun hlimit => ?_, fun hlimit x h => ?_⟩, fun i s code a hm h => ?_,
    fun i s n ea ha h16 hffff hup => ?_⟩
  · rw [← State.zeroCode_real hm]
    exact exec_of_outsideLimit ha (by simp [hm]) hlimit
  · have hnone := (State.segmentFault_real_or_v86 (.inl hm) n ea).mpr hlimit
    obtain ⟨hon, -⟩ := exec_fault_of_no_segmentFault ha hnone h
    rw [State.pagingOn_real hm] at hon
    cases hon
  · obtain ⟨-, -, hpf⟩ := pageFaultIsRaisedAfterSegmentChecks
    obtain ⟨hon, -⟩ := hpf i s code a h
    rw [State.pagingOn_real hm] at hon
    cases hon
  · have hlt := State.addresses_a16_lt ha h16
    rw [← Bool.not_eq_true, SegReg.outsideLimit_expandUp hup, BitVec.lt_def, toNat_limit, hffff]
    change ¬0xFFFF < ea.toNat
    omega

/-- Settles O41: the limit is the only check. -/
theorem virtual8086ModeLimitFaults : Obligations.Virtual8086ModeLimitFaults := by
  refine fun i s n ea hm ha => ⟨fun hlimit => ?_, fun hlimit x h => ?_⟩
  · rw [← State.zeroCode_of_ne_real (s := s) (by simp [hm])]
    exact exec_of_outsideLimit ha (by simp [hm]) hlimit
  · have hnone := (State.segmentFault_real_or_v86 (.inr hm) n ea).mpr hlimit
    obtain ⟨-, hpf⟩ := exec_fault_of_no_segmentFault ha hnone h
    exact hpf

/-! Compatibility mode (60_exceptions.md R142): what decides on a fault is the same as in protected mode. -/

section

variable {s : State} {rex : Option Rex} {f : Form}

theorem addrSize_compat (d : CodeSize) (a67 : Bool) : addrSize ⟨.compat, d⟩ a67 = addrSize ⟨.prot, d⟩ a67 := by
  cases d <;> rfl

theorem Form.wf_compat (d : CodeSize) (rex : Option Rex) (f : Form) :
    f.wf ⟨.compat, d⟩ rex = f.wf ⟨.prot, d⟩ rex := by
  rw [Form.wf, addrSize_compat]
  rfl

theorem State.ctx_of_prot (hm : s.mode = .prot) : s.ctx = ⟨.prot, s.csD⟩ := by rw [State.ctx, hm]

theorem State.pcInRange_compat (hm : s.mode = .prot) (len : Nat) :
    ({ s with mode := .compat } : State).pcInRange len = s.pcInRange len := by
  rw [Bool.eq_iff_iff, State.pcInRange_of_ne_long64 (s := { s with mode := .compat }) nofun,
    State.pcInRange_of_ne_long64 (by simp [hm])]

theorem State.issues_compat (hm : s.mode = .prot) :
    ({ s with mode := .compat } : State).issues rex f = s.issues rex f := by
  rw [State.issues, State.issues, State.ctx_of_prot hm, ← Form.wf_compat, State.pcInRange_compat hm]
  rfl

theorem effectiveAddress_compat (hm : s.mode = .prot) (a : AddrSize) (len : Nat) (rm : RmOperand) :
    effectiveAddress { s with mode := .compat } a rex len rm = effectiveAddress s a rex len rm := by
  cases rm with
  | direct d => simp [effectiveAddress, hm]
  | _ => rfl

theorem destination_compat (hm : s.mode = .prot) :
    destination { s with mode := .compat } rex f = destination s rex f := by
  have haddress : effectiveAddressOf { s with mode := .compat } rex f = effectiveAddressOf s rex f := by
    rw [effectiveAddressOf, effectiveAddress_compat hm, effectiveAddressOf, State.ctx_of_prot hm, ← addrSize_compat]
    rfl
  unfold destination
  rw [haddress]

theorem State.addresses_compat (hm : s.mode = .prot) (i : Instr) (n : SegName) (ea : Word) :
    ({ s with mode := .compat } : State).addresses i n ea ↔ s.addresses i n ea := by
  rw [State.addresses, State.addresses, State.issues_compat hm, destination_compat hm]

/-- The check, the linear address, the paging and the privilege are those of protected mode. -/
theorem State.resolve_compat (hm : s.mode = .prot) (hpaging : s.paging = true) (n : SegName) (ea : Word) :
    ({ s with mode := .compat } : State).resolve n ea = s.resolve n ea := by
  have hcheck : ({ s with mode := .compat } : State).segmentFault n ea = s.segmentFault n ea :=
    State.segmentFault_congr_of_prot_or_compat (t := { s with mode := .compat }) (.inl hm) (.inr rfl) rfl ea
  have hlinear : ({ s with mode := .compat } : State).linear n ea = s.linear n ea := by
    rw [State.linear_prot_or_compat (.inl hm), State.linear_prot_or_compat (.inr rfl)]
    rfl
  have htranslate (a : Word) : ({ s with mode := .compat } : State).translate a true = s.translate a true := by
    simp [State.translate, State.pagingOn, State.user, State.cpl, hm, hpaging]
  rw [State.resolve, hcheck, hlinear, htranslate]
  rfl

end

/-- Settles O42: each of the two sources of a fault is the same in both modes. -/
theorem compatibilityModeFaultsAsProtectedMode : Obligations.CompatibilityModeFaultsAsProtectedMode := by
  intro i s x hm hpaging
  rw [exec_fault_iff, exec_fault_iff, State.issues_compat hm]
  simp only [State.addresses_compat hm, State.resolve_compat hm hpaging]

/-! 64-bit mode (60_exceptions.md R143, R144). -/

section

variable {c : Ctx} {rex : Option Rex} {f : Form}

theorem segmentOfBase_eq_ss_iff (i : BitVec 4) : segmentOfBase i = .ss ↔ i = 4#4 ∨ i = 5#4 := by
  by_cases h : i = 4#4 ∨ i = 5#4 <;> simp [segmentOfBase, h]

theorem addrSize_long64_ne_a16 (hc : c.mode = .long64) (a67 : Bool) : addrSize c a67 ≠ .a16 := by
  cases a67 <;> simp [addrSize, hc]

/-- No override that 64-bit mode admits is SS. -/
theorem Form.override_ne_ss (hc : c.mode = .long64) (hwf : f.overrideOk c = true) : f.override ≠ some .ss := by
  intro hss
  rw [Form.overrideOk_of_flat hss hc (by simp)] at hwf
  cases hwf

/-- Where the address size is not 16, the forms with SS for their default segment are those with a base register RSP or
RBP. -/
theorem defaultSegment_eq_ss_iff {a : AddrSize} {rm : RmOperand} (ha : a ≠ .a16) (hwf : rm.wf a = true) :
    defaultSegment rex rm = .ss ↔
      (∃ r d, rm = .based r d ∧ (BitVec.ofBool (rexB rex) ++ r = 4#4 ∨ BitVec.ofBool (rexB rex) ++ r = 5#4)) ∨
        ∃ scale index base d, rm = .sib scale index base d ∧
          (BitVec.ofBool (rexB rex) ++ base = 4#4 ∨ BitVec.ofBool (rexB rex) ++ base = 5#4) := by
  cases rm with
  | based16 b d => simp [RmOperand.wf, ha] at hwf
  | based r d => simp [defaultSegment, segmentOfBase_eq_ss_iff, extend]
  | sib scale index base d => simp [defaultSegment, segmentOfBase_eq_ss_iff, extend]
  | reg r => simp [defaultSegment]
  | abs16 d => simp [defaultSegment]
  | direct d => simp [defaultSegment]
  | sibNoBase scale index d => simp [defaultSegment]

theorem segmentOf_eq_ss_iff (h : f.override ≠ some .ss) :
    segmentOf rex f = .ss ↔ f.override = none ∧ defaultSegment rex f.rm = .ss := by
  cases hoverride : f.override with
  | none => simp [segmentOf_of_no_override hoverride]
  | some n => simpa [segmentOf_of_override hoverride, hoverride] using h

end

/-- Settles O43: canonical form is the only check, and the segment is the default one or FS or GS. -/
theorem nonCanonicalAddressFaults : Obligations.NonCanonicalAddressFaults := by
  refine fun i s n ea hm ha => ⟨fun hcanonical => ?_, fun hcanonical x h => ?_, ?_⟩
  · have hfault : s.segmentFault n ea = some (s.addressFault n) := by
      rw [State.segmentFault_eq_of_long64 hm, if_neg (by simp [hcanonical])]
    rw [← State.zeroCode_of_ne_real (s := s) (by simp [hm])]
    exact (exec_of_addressFault ha hfault).symm
  · obtain ⟨-, hpf⟩ := exec_fault_of_no_segmentFault ha ((State.segmentFault_long64 hm n ea).mpr hcanonical) h
    exact hpf
  · obtain ⟨hissues, -, hd⟩ := ha
    obtain ⟨hwf, -⟩ := (Bool.and_eq_true _ _).mp hissues
    obtain ⟨-, -, hrm, hoverride⟩ := (Instr.wf_iff s.ctx i).mp hwf
    obtain ⟨-, rfl, -⟩ := destination_isMem hd
    rw [segmentOf_eq_ss_iff (Form.override_ne_ss hm hoverride),
      defaultSegment_eq_ss_iff (addrSize_long64_ne_a16 hm _) hrm]

/-! A register form in every mode (40_setcc.md R81; 60_exceptions.md R154). -/

/-- Without REX, a register form is encodable in one mode exactly when it is in every other. -/
theorem Form.wf_of_reg {f : Form} {rm : BitVec 3} (h : f.rm = .reg rm) (c c' : Ctx) : f.wf c none = f.wf c' none := by
  have hoverride : f.overrideOk c = f.overrideOk c' := by
    cases ho : f.override <;> simp [Form.overrideOk, ho, h, RmOperand.isReg]
  simp [Form.wf, h, RmOperand.wf, hoverride]

/-- Settles O33: only whether a register form issues depends on the mode, not what it writes. -/
theorem registerFormIsSameInEveryMode : Obligations.RegisterFormIsSameInEveryMode := by
  intro i s t rm m hrex hrm h hrange
  obtain ⟨hissues, hlocked, -⟩ := exec_next h
  have hissues' : ({ s with mode := m } : State).issues i.rex i.form = true := by
    obtain ⟨hwf, -⟩ := (Bool.and_eq_true _ _).mp hissues
    rw [hrex] at hwf
    refine (Bool.and_eq_true _ _).mpr ⟨?_, hrange⟩
    rw [hrex, Form.wf_of_reg hrm _ s.ctx]
    exact hwf
  rw [exec_next_of_reg h hrm, exec_of_reg hissues' hlocked (destination_of_reg hrm _ i.rex)]
  rfl

/-! Debug features (60_exceptions.md R158). -/

theorem State.debugActive_iff (s : State) :
    s.debugActive = true ↔ s.rflags.getLsbD 8 = true ∨ s.breakpointArmed = true := by
  simp [State.debugActive, State.trapFlag]

theorem step_of_debugActive {s : State} (h : s.debugActive = true) : step s = .refused .debugActive := by
  simp [step, State.nextInstr, h]

/-- No instruction refuses by that name. -/
theorem exec_ne_debugActive (i : Instr) (s : State) : exec i s ≠ .refused .debugActive := by
  intro h
  obtain ⟨hr, -⟩ | ⟨hr, -⟩ | ⟨p, -, hr⟩ := exec_refused h
  · cases hr
  · cases hr
  · obtain ⟨hr, -⟩ | ⟨hr, -⟩ := (s.storeRefusal_eq_some p _).mp hr <;> cases hr

/-- Nor are bytes that do not decode refused by it. -/
theorem State.decodeRefusal_ne_debugActive (s : State) (e : DecodeRefusal) : s.decodeRefusal e ≠ .debugActive := by
  by_cases he : e = .truncated
  · subst he
    unfold State.decodeRefusal
    split_ifs <;> nofun
  · rw [s.decodeRefusal_of_ne_truncated he]
    nofun

theorem step_ne_debugActive {s : State} (h : s.debugActive = false) : step s ≠ .refused .debugActive := by
  cases hdecode : decode s.ctx s.fetchWindow with
  | ok r =>
    rw [step_of_decode_ok h hdecode]
    exact exec_ne_debugActive r.1 s
  | error e =>
    rw [step_of_decode_error h hdecode]
    exact fun hr => s.decodeRefusal_ne_debugActive e (Host.Outcome.refused.inj hr)

/-- Settles O50: only the check of the debug features refuses by that name. -/
theorem activeDebugIsRefused : Obligations.ActiveDebugIsRefused := by
  intro s
  rw [← s.debugActive_iff]
  refine ⟨fun h => ?_, step_of_debugActive⟩
  by_contra hdebug
  exact step_ne_debugActive (Bool.eq_false_of_not_eq_true hdebug) h

end Sys2Proof.Machine

/-!
Proofs about whole runs (70_reset_and_hazards.md R176): a run ends, and how.

The bound comes from one step: `step_next_inText` says that the bytes of a completed instruction lie in the program text,
so `pc` moves on by at least three bytes and not past the end of the text. A run that completes no further step is
therefore reached within `length / 3` steps, and the answer of the step it stops at is the outcome of the whole run
(`State.exists_outcome_eq_run`).
-/

namespace Sys2Proof.Machine

/-! A completed step stays in the text. -/

/-- The byte offsets of an instruction in the range of `pc` do not wrap. -/
theorem State.toNat_pc_add {s : State} {len k : Nat} (h : s.pcInRange len = true) (hk : k ≤ len) :
    (s.pc + BitVec.ofNat 64 k).toNat = s.pc.toNat + k := by
  have hend := State.toNat_nextPc h
  have hlt := (s.pc + BitVec.ofNat 64 len).isLt
  rw [BitVec.toNat_add, BitVec.toNat_ofNat, Nat.add_mod_mod, Nat.mod_eq_of_lt (by omega)]

/-- A completed instruction has all its bytes in the text: it begins at `base` or later and ends where the text does or
earlier, at least three bytes on (30_encoding.md R69). -/
theorem step_next_inText {s t : State} (h : step s = .next t) :
    s.text.base.toNat ≤ s.pc.toNat ∧ s.pc.toNat + 3 ≤ t.pc.toNat ∧
      t.pc.toNat ≤ s.text.base.toNat + s.text.length := by
  obtain ⟨-, i, rest, hdecode, hexec⟩ := step_next h
  obtain ⟨-, -, hbytes⟩ := encodeOfDecodeGivesBytes _ _ _ _ hdecode
  have hlength : i.length ≤ s.fetchWindow.length := by
    rw [← hbytes, List.length_append, i.length_encode]
    exact Nat.le_add_right _ _
  have hinText (k : Nat) (hk : k < i.length) :
      s.text.base.toNat ≤ s.pc.toNat + k ∧ s.pc.toNat + k < s.text.base.toNat + s.text.length := by
    rw [← State.toNat_pc_add (exec_next_pcInRange hexec) hk.le]
    exact (s.inText_iff _).mp (s.fetchFrom_inText s.pc maxInsnLen k (hk.trans_le hlength))
  have hthree : 3 ≤ i.length := i.form.three_le_length i.rex
  have hpc : t.pc.toNat = s.pc.toNat + i.length := (instructionPointerAdvancesByLength i s t hexec).1
  have hfirst := hinText 0 (by omega)
  have hlast := hinText (i.length - 1) (by omega)
  omega

/-! What a run keeps, and that it stays in the text (20_memory.md R47). -/

theorem core_run_text {k : Nat} {s t : State} (h : Sys2Proof.core.run k s = .next t) : t.text = s.text := by
  obtain ⟨-, -, -, -, -, -, htext, -⟩ := core_run_sameSetting h
  exact htext

theorem core_run_debugActive {k : Nat} {s t : State} (h : Sys2Proof.core.run k s = .next t) :
    t.debugActive = s.debugActive := by
  obtain ⟨hrflags, -, -, -, -, -, -, hbreak, -⟩ := core_run_sameSetting h
  simp [State.debugActive, State.trapFlag, hrflags, hbreak]

/-- Of any machine: a completed step and then a run. -/
theorem core_run_of_step {M : Host.Core} {s u : M.State} (h : M.step s = .next u) (k : Nat) :
    M.run (k + 1) s = M.run k u := by
  simp [Host.Core.run, h]

theorem core_run_inText {k : Nat} {s t : State} (h : Sys2Proof.core.run (k + 1) s = .next t) :
    s.text.base.toNat ≤ s.pc.toNat ∧ s.pc.toNat + 3 * (k + 1) ≤ t.pc.toNat ∧
      t.pc.toNat ≤ s.text.base.toNat + s.text.length := by
  induction k generalizing s with
  | zero =>
    obtain ⟨u, hstep, hrun⟩ := core_run_succ (M := Sys2Proof.core) h
    cases hrun
    exact step_next_inText hstep
  | succ k ih =>
    obtain ⟨u, hstep, hrun⟩ := core_run_succ (M := Sys2Proof.core) h
    obtain ⟨hbase, hadvance, -⟩ := step_next_inText hstep
    obtain ⟨i, hexec⟩ := exists_exec_of_step_next hstep
    obtain ⟨-, -, -, -, -, -, htext, -⟩ := exec_next_sameSetting hexec
    obtain ⟨-, hrest, hend⟩ := ih hrun
    rw [htext] at hend
    omega

/-- Settles O56: from the first step on the run lies in the text, three bytes or more for each step. -/
theorem runLengthIsBoundedByText : Obligations.RunLengthIsBoundedByText := by
  intro k s t h
  cases k with
  | zero => exact Nat.zero_le _
  | succ k =>
    obtain ⟨hbase, hadvance, hend⟩ := core_run_inText h
    omega

/-! Where a run stops. -/

/-- A run makes `n` steps or stops before. -/
theorem core_run_next_or_stops (n : Nat) (s : State) :
    (∃ t, Sys2Proof.core.run n s = .next t) ∨
      ∃ k t, Sys2Proof.core.run k s = .next t ∧ ∀ u, step t ≠ .next u := by
  induction n generalizing s with
  | zero => exact .inl ⟨s, rfl⟩
  | succ n ih =>
    by_cases hstep : ∃ u, step s = .next u
    · obtain ⟨u, hu⟩ := hstep
      have hrun := core_run_of_step (M := Sys2Proof.core) hu
      obtain ⟨t, ht⟩ | ⟨k, t, ht, hstop⟩ := ih u
      · exact .inl ⟨t, (hrun n).trans ht⟩
      · exact .inr ⟨k + 1, t, (hrun k).trans ht, hstop⟩
    · exact .inr ⟨0, s, rfl, not_exists.mp hstep⟩

/-- Every run stops: the text is too short for more than `length / 3` steps. -/
theorem exists_core_run_stops (s : State) :
    ∃ k t, Sys2Proof.core.run k s = .next t ∧ ∀ u, step t ≠ .next u := by
  refine (core_run_next_or_stops (s.text.length / 3 + 1) s).resolve_left fun ⟨t, h⟩ => ?_
  have hle := runLengthIsBoundedByText _ s t h
  omega

/-- `k` completed steps use up `k` of the steps allowed. -/
theorem run_add_of_core_run {k : Nat} {s t : State} (h : Sys2Proof.core.run k s = .next t) (n : Nat) :
    run (k + n) s = run n t := by
  induction k generalizing s with
  | zero =>
    cases h
    rw [Nat.zero_add]
  | succ k ih =>
    obtain ⟨u, hstep, hrun⟩ := core_run_succ (M := Sys2Proof.core) h
    rw [Nat.add_right_comm, run_next _ hstep, ih hrun]

/-- After any completed steps at least one more is allowed: where the run stops, its last step decides the outcome. -/
theorem State.exists_outcome_eq_run {k : Nat} {s t : State} (h : Sys2Proof.core.run k s = .next t) :
    ∃ n, s.outcome = run (n + 1) t := by
  have hle := runLengthIsBoundedByText k s t h
  refine ⟨s.text.length / 3 - k, ?_⟩
  rw [← run_add_of_core_run h, State.outcome]
  congr 1
  omega

/-! The end of the text (70_reset_and_hazards.md R176). -/

theorem exec_ne_done (i : Instr) (s : State) : exec i s ≠ .refused .done := by
  intro h
  obtain ⟨hr, -⟩ | ⟨hr, -⟩ | ⟨p, -, hr⟩ := exec_refused h
  · cases hr
  · cases hr
  · obtain ⟨hr, -⟩ | ⟨hr, -⟩ := (s.storeRefusal_eq_some p _).mp hr <;> cases hr

theorem State.pc_of_decodeRefusal_eq_done {s : State} {e : DecodeRefusal} (h : s.decodeRefusal e = .done) :
    s.pc.toNat = s.text.base.toNat + s.text.length := by
  by_contra hpc
  by_cases he : e = .truncated
  · rw [he, State.decodeRefusal_truncated hpc] at h
    split at h <;> cases h
  · rw [s.decodeRefusal_of_ne_truncated he] at h
    cases h

/-- A step is refused as `done` just past the text and nowhere else; the debug features are looked at first. -/
theorem step_eq_done_iff (s : State) :
    step s = .refused .done ↔ s.debugActive = false ∧ s.pc.toNat = s.text.base.toNat + s.text.length := by
  refine ⟨fun h => ?_, fun ⟨hdebug, hpc⟩ => fetchOutsideTextIsRefused.1 s hdebug hpc⟩
  cases hdebug : s.debugActive with
  | true =>
    rw [step_of_debugActive hdebug] at h
    cases h
  | false =>
    refine ⟨rfl, ?_⟩
    cases hdecode : decode s.ctx s.fetchWindow with
    | ok r =>
      rw [step_of_decode_ok hdebug hdecode] at h
      exact absurd h (exec_ne_done r.1 s)
    | error e =>
      rw [step_of_decode_error hdebug hdecode] at h
      exact State.pc_of_decodeRefusal_eq_done (Host.Outcome.refused.inj h)

/-- Settles O59: the run stops at a state whose step does not complete, and what that step answers is the outcome. -/
theorem runEndsInDoneFaultOrRefused : Obligations.RunEndsInDoneFaultOrRefused := by
  refine ⟨fun s => ?_, fun s t k hdebug hrun hpc => ?_⟩
  · obtain ⟨k, t, hrun, hstop⟩ := exists_core_run_stops s
    obtain ⟨n, houtcome⟩ := State.exists_outcome_eq_run hrun
    refine ⟨k, t, runLengthIsBoundedByText k s t hrun, hrun, ?_⟩
    rw [houtcome]
    cases hstep : step t with
    | next u => exact absurd hstep (hstop u)
    | fault x => exact .inr (.inl ⟨x, run_fault n hstep, rfl⟩)
    | refused why =>
      by_cases hwhy : why = .done
      · subst hwhy
        obtain ⟨-, hpc⟩ := (step_eq_done_iff t).mp hstep
        exact .inl ⟨run_done n hstep, core_run_text hrun ▸ hpc⟩
      · exact .inr (.inr ⟨why, run_refused n hstep hwhy, rfl, hwhy⟩)
  · obtain ⟨n, houtcome⟩ := State.exists_outcome_eq_run hrun
    rw [houtcome]
    exact run_done n ((step_eq_done_iff t).mpr ⟨(core_run_debugActive hrun).trans hdebug, core_run_text hrun ▸ hpc⟩)

end Sys2Proof.Machine
